-- ==== Sys2Proof/Word.lean ====
section
/-!
DEFINITION. The widths PB's values have (spec/00_scope.md R6): bytes on the wire and in the buffers, 16-bit values
(CRC, Modbus registers, lengths), and the 32-bit words of the host's register space.
-/
namespace Sys2Proof

/-- `u8`: a byte of a frame or of a buffer (R6). -/
abbrev Byte := BitVec 8

/-- `u16`: a CRC, a Modbus register, a length field (R6). -/
abbrev Half := BitVec 16

/-- `u32`: one word of the host register space (R6, R62). -/
abbrev Word := BitVec 32

end Sys2Proof
end

