-- ==== Sys2Proof/Config.lean ====
section
/-!
DEFINITION. What an implementation fixes, and the free values of the model: the parameters of spec/00_scope.md R5 and
the transport's answers (spec/20_memory.md R78, R79).
-/
namespace Sys2Proof

/-- TXCAP: the transmit buffer's size in bytes (R5, D6). -/
def Config.txcap : Nat := 512

/-- REGCAP: the number of entries of the decoded-register array (R5, D6). -/
def Config.regcap : Nat := 128

/-- The size in bytes of the host register space (R60). -/
def Config.windowSize : Nat := 0x4000

/-- The OPEN parameters of R5 and R60 that have a value in the model. State holds one such record and no step changes
it (log 1). -/
structure Params where
  /-- RXCAP: the receive buffer's size in bytes, 16 to 1024. -/
  rxcap : Nat
  /-- BMS_CHUNK_MAX: the most bytes one BMS read asks for, 1 to 1024. -/
  chunkMax : Nat
  /-- PB_BASE: where the platform places PB's register space. -/
  pbBase : Nat
deriving DecidableEq, Repr

/-- The OPEN durations of R5. They are names: the model has no time (R320, D23, log 15). -/
inductive Delay where
  /-- MB_TIMEOUT, the bound of the Modbus response read. -/
  | mbTimeout
  /-- BMS_SETTLE, the delay before the first BMS read. -/
  | bmsSettle
  /-- BMS_DRAIN, the delay before each drain read. -/
  | bmsDrain
  /-- BMS_RD_TIMEOUT, the bound of each BMS read. -/
  | bmsRdTimeout
deriving DecidableEq, Repr

/-- What the transport answers to one transaction (R78, R79): an error, or Ok, with the bytes received where the
transaction is a read. -/
inductive Answer where
  /-- `Err`. -/
  | err
  /-- `Ok`; `bytes` is what a read returns, and means nothing on a clear or a write. -/
  | ok (bytes : List Byte)
deriving DecidableEq, Repr, Inhabited

/-- The draw of R78 and R79 (93 I3, I4): the answer to the n-th transaction for which State lists no answer. It has no
body, so that nothing can be proved of its value (log 3). -/
opaque Config.transportAnswer : Nat → Answer

end Sys2Proof
end

