-- ==== Sys2Proof/Syntax.lean ====
section
/-!
DEFINITION. The commands of PB, one constructor per row of spec/opcode_table.json (spec/30_encoding.md R92). An OP
outside the map is no constructor: the step completes it with IllegalCommand (spec/43_control.md R252, log 10).
-/
namespace Sys2Proof

/-- A command of the opcode map (R92). Only CRC_BYTE has an operand of its own, ARG (R91). -/
inductive Instr where
  /-- CRC_INIT, R124. -/
  | crcInit
  /-- CRC_BYTE, R125; `arg` is CMD[15:8]. -/
  | crcByte (arg : Byte)
  /-- CRC_TX, R126. -/
  | crcTx
  /-- CRC_CHK, R127. -/
  | crcChk
  /-- MB_BUILD, R160. -/
  | mbBuild
  /-- MB_DECODE, R161. -/
  | mbDecode
  /-- MB_READ, R162. -/
  | mbRead
  /-- BMS_BUILD, R210. -/
  | bmsBuild
  /-- BMS_CHECK, R211. -/
  | bmsCheck
  /-- BMS_XCHG, R212. -/
  | bmsXchg
  /-- CLR_STATUS, R251. -/
  | clrStatus
deriving DecidableEq, Repr

end Sys2Proof
end

