-- ==== Sys2Proof/WellFormed.lean ====
section
/-!
DEFINITION. What is well formed: a command, a command word as software should write it (spec/30_encoding.md R91), and
the OPEN parameters (spec/00_scope.md R5).
-/
namespace Sys2Proof

/-- Every command is well formed: the one operand, ARG, is any 8-bit value (R91), and its type says so. -/
def Instr.wf : Instr → Bool
  | .crcInit => true
  | .crcByte _ => true
  | .crcTx => true
  | .crcChk => true
  | .mbBuild => true
  | .mbDecode => true
  | .mbRead => true
  | .bmsBuild => true
  | .bmsCheck => true
  | .bmsXchg => true
  | .clrStatus => true

/-- A command word as software should write it (R91): bits [31:16] are 0, and ARG is 0 unless OP is CRC_BYTE (0x02).
PB gives any other word the same meaning as the canonical one. -/
def canonicalWord (w : Word) : Bool :=
  w.extractLsb' 16 16 == 0#16 && (w.extractLsb' 0 8 == 0x02#8 || w.extractLsb' 8 8 == 0#8)

/-- The ranges of R5: RXCAP 16 to 1024, BMS_CHUNK_MAX 1 to 1024. R60 leaves PB_BASE to the platform. -/
def Params.wf (p : Params) : Bool :=
  decide (16 ≤ p.rxcap) && decide (p.rxcap ≤ 1024) && decide (1 ≤ p.chunkMax) && decide (p.chunkMax ≤ 1024)

end Sys2Proof
end

