-- ==== Sys2Proof/Decode.lean ====
section
/-!
DEFINITION. The command word of spec/30_encoding.md: the decoder (R90 to R93), then the encoder, written from the same
table. Nothing but OP, and ARG for CRC_BYTE, is read (R91).
-/
namespace Sys2Proof

/-- Why a word is no command. The engine does not stop on it: an illegal OP completes with IllegalCommand (R252). -/
inductive DecodeError where
  /-- OP is none of R92's (R93). -/
  | illegalOp (op : Byte)
  /-- Fewer than the four bytes that every command has (R90); `n` are there. -/
  | truncated (n : Nat)
deriving DecidableEq, Repr

/-- OP, `CMD[7:0]` (R90). -/
def opField (w : Word) : Byte := w.extractLsb' 0 8

/-- ARG, `CMD[15:8]` (R90, R91). -/
def argField (w : Word) : Byte := w.extractLsb' 8 8

/-- The opcode map of R92, from OP and ARG. -/
def decodeOp (op arg : Byte) : Option Instr :=
  if op = 0x01#8 then some .crcInit
  else if op = 0x02#8 then some (.crcByte arg)
  else if op = 0x03#8 then some .crcTx
  else if op = 0x04#8 then some .crcChk
  else if op = 0x10#8 then some .mbBuild
  else if op = 0x11#8 then some .mbDecode
  else if op = 0x12#8 then some .mbRead
  else if op = 0x20#8 then some .bmsBuild
  else if op = 0x21#8 then some .bmsCheck
  else if op = 0x22#8 then some .bmsXchg
  else if op = 0xF0#8 then some .clrStatus
  else none

/-- The command a word written to CMD names (R90 to R93). -/
def decode (w : Word) : Except DecodeError Instr :=
  match decodeOp (opField w) (argField w) with
  | some i => .ok i
  | none => .error (.illegalOp (opField w))

/-- A command as the four byte lanes of its word, byte +0 first (R63), and the bytes after it. -/
def decodeBytes : List Byte → Except DecodeError (Instr × List Byte)
  | b0 :: b1 :: b2 :: b3 :: rest =>
    match decode (b3 ++ b2 ++ b1 ++ b0) with
    | .ok i => .ok (i, rest)
    | .error e => .error e
  | bs => .error (.truncated bs.length)

/-- OP of a command (R92). -/
def Instr.opcode : Instr → Byte
  | .crcInit => 0x01#8
  | .crcByte _ => 0x02#8
  | .crcTx => 0x03#8
  | .crcChk => 0x04#8
  | .mbBuild => 0x10#8
  | .mbDecode => 0x11#8
  | .mbRead => 0x12#8
  | .bmsBuild => 0x20#8
  | .bmsCheck => 0x21#8
  | .bmsXchg => 0x22#8
  | .clrStatus => 0xF0#8

/-- ARG as software should write it: 0 where the command ignores it (R91). -/
def Instr.arg : Instr → Byte
  | .crcByte a => a
  | .crcInit => 0#8
  | .crcTx => 0#8
  | .crcChk => 0#8
  | .mbBuild => 0#8
  | .mbDecode => 0#8
  | .mbRead => 0#8
  | .bmsBuild => 0#8
  | .bmsCheck => 0#8
  | .bmsXchg => 0#8
  | .clrStatus => 0#8

/-- The canonical command word of a command: `{16'h0000, arg, OP}` (R90, R100). -/
def encode (i : Instr) : Word := 0#16 ++ i.arg ++ i.opcode

/-- The four byte lanes of a word, byte +0 (bits [7:0]) first (R63). -/
def wordBytes (w : Word) : List Byte :=
  [w.extractLsb' 0 8, w.extractLsb' 8 8, w.extractLsb' 16 8, w.extractLsb' 24 8]

/-- The command a table row's word decodes to. A row has one 32-bit word; bits above `nbits` are 0. -/
def decodeTableWord (nbits w : Nat) : Option Instr :=
  match decodeBytes (wordBytes (BitVec.ofNat 32 (w % 2 ^ nbits))) with
  | .ok (i, _) => some i
  | .error _ => none

end Sys2Proof
end

