-- ==== Sys2Proof/Machine/Checksums.lean ====
section
/-!
DEFINITION. The CRC-16 arithmetic of spec/40_crc.md (R120 to R122) and the additive checksum of spec/42_bms.md (R200,
R201), as pure functions.
-/
namespace Sys2Proof.Machine

/-- `v[7:0]` of a 16-bit value, the CRC's lowByte (R26). -/
def lowByte (h : Half) : Byte := h.extractLsb' 0 8

/-- `v[15:8]` of a 16-bit value, the CRC's highByte (R26). -/
def highByte (h : Half) : Byte := h.extractLsb' 8 8

/-- One of the 8 shifts of R120. -/
def crcShift (c : Half) : Half :=
  if c.getLsbD 0 then (c >>> 1) ^^^ 0xA001#16 else c >>> 1

/-- `crcStep(c, b)` (R120). -/
def crcStep (c : Half) (b : Byte) : Half :=
  crcShift (crcShift (crcShift (crcShift (crcShift (crcShift (crcShift (crcShift
    (c ^^^ b.setWidth 16))))))))

/-- `crc16(s)` (R121). -/
def crc16 (s : List Byte) : Half := s.foldl crcStep 0xFFFF#16

/-- Byte `i` of a frame, for `i` inside it. -/
def byteAt (f : List Byte) (i : Nat) : Byte := f.getD i 0#8

/-- The last two bytes of a frame of at least two bytes are its CRC `c`, low byte first (R121, R122). -/
def crcBytesMatch (f : List Byte) (c : Half) : Bool :=
  lowByte c == byteAt f (f.length - 2) && highByte c == byteAt f (f.length - 1)

/-- The CRC of all bytes but the last two (R122). -/
def bodyCrc (f : List Byte) : Half := crc16 (f.take (f.length - 2))

/-- `verifyCrc16(f)` (R122). -/
def verifyCrc16 (f : List Byte) : Bool :=
  if f.length < 3 then false else crcBytesMatch f (bodyCrc f)

/-- `sum8(s)` (R200): the exact sum, reduced once. -/
def sum8 (s : List Byte) : Byte := BitVec.ofNat 8 (s.map BitVec.toNat).sum

/-- `verifySum8(f)` for a frame of at least one byte (R201). -/
def verifySum8 (f : List Byte) : Bool := sum8 (f.take (f.length - 1)) == byteAt f (f.length - 1)

end Sys2Proof.Machine
end

