-- ==== Sys2Proof/Machine/State.lean ====
section
/-!
DEFINITION. The state of PB as plain data (spec/10_state.md), the reasons a step can stop, and the state after power-on
reset (spec/70_reset_and_hazards.md R300, R301). The environment's inputs still to come (turns, answers) and the outputs
already seen (transactions, read data) stand beside PB's own state.
-/
namespace Sys2Proof.Machine

/-- A data array of 10_state.md section 3: the written entries as (index, value) pairs, indices strictly rising
(`Memory.wf`). An unlisted entry has its written-bit clear and holds no value (R41). At width 8 an entry is a
`Host.Cell`. -/
abbrev Memory (w : Nat) := List (Nat × BitVec w)

/-- The three data arrays (R38 to R40). -/
inductive DataArray where
  | txbuf
  | rxbuf
  | regs
deriving DecidableEq, Repr

/-- Why the machine stops. -/
inductive Fault where
  /-- `UninitRead` (R41): the host or a command read an entry of the array that nothing has written since power-on.
  Raised by host reads and by CRC_TX, CRC_CHK, MB_DECODE, MB_READ, BMS_BUILD, BMS_CHECK and BMS_XCHG. Safe: the
  hardware goes on with some value (D7). -/
  | uninitRead (a : DataArray)
  /-- A host access whose address is not in PB's 16 KiB window (R60): it is no access to PB, and what answers it is the
  platform's. Raised by host accesses. Safe: nothing is claimed of it (log 12). -/
  | outsideWindow (addr : Nat)
deriving DecidableEq, Repr

/-- Why the machine refuses an action. -/
inductive Refusal where
  /-- An instruction without a meaning, by its mnemonic. No arm answers it. Safe. -/
  | notModelled (mnemonic : String)
  /-- `RefusedWidth` (R62): a host access of width 1 or 2, which PB's interface cannot express. Raised by host accesses.
  Safe. -/
  | refusedWidth
deriving DecidableEq, Repr

/-- One transaction on the transport port (R75). -/
inductive Transaction where
  /-- `T.clearIn()`. -/
  | clearIn
  /-- `T.clearOut()`. -/
  | clearOut
  /-- `T.write(s)`. -/
  | write (bytes : List Byte)
  /-- `T.wait(d)`. -/
  | wait (d : Delay)
  /-- `T.read(max, timeout)`. -/
  | read (max : Nat) (timeout : Delay)
deriving DecidableEq, Repr

/-- The operands latched when a command starts (R42). -/
structure Latch where
  slave : Byte
  func : Byte
  start : Half
  count : Half
  bcmd : Byte
  plen : Byte
deriving DecidableEq, Repr

/-- The next step of a running MB_READ after its build step (R23, R162), with the frame `fr` and the answer `r` of the
read as local variables. Each transport call is a step of its own, and so is the pseudocode between two calls where it
does anything (R11, log 7). -/
inductive MbPos where
  /-- `if T.clearIn() == Err`, the opening clear. -/
  | clearIn (fr : List Byte)
  | clearOut (fr : List Byte)
  | write (fr : List Byte)
  | read
  /-- The read has answered `r`: store it. -/
  | got (r : Answer)
  /-- The closing `T.clearIn()` (R80). -/
  | closeIn
  /-- A clear or the write has answered Err: `finish(TransportError)`. -/
  | failed
  /-- `finish(mbDecode(...))`. -/
  | finish
deriving DecidableEq, Repr

/-- Which of the up to four BMS reads (R204): the first, or drain read 1, 2 or 3. -/
inductive ReadIx where
  | first
  | d1
  | d2
  | d3
deriving DecidableEq, Repr

/-- The next step of a running BMS_XCHG after its build step (R23, R212); as `MbPos`. -/
inductive BmsPos where
  | clearIn (fr : List Byte)
  | clearOut (fr : List Byte)
  | write (fr : List Byte)
  /-- `T.wait(BMS_SETTLE)`. -/
  | settle
  /-- `T.wait(BMS_DRAIN)` before drain read `ix`. -/
  | drainWait (ix : ReadIx)
  | read (ix : ReadIx)
  /-- Read `ix` has answered `r`: count it, append it, choose what follows. -/
  | got (ix : ReadIx) (r : Answer)
  | closeIn
  | failed
  /-- The result of R206. -/
  | finish
deriving DecidableEq, Repr

/-- The sequencer (R23): IDLE or RUN(op, pos). -/
inductive Seq where
  | idle
  /-- RUN(OP, start): the command word written to CMD, whose first engine step is next (R253). -/
  | start (cmd : Word)
  /-- RUN(0x12, pos) past the build step. -/
  | mbRead (pos : MbPos)
  /-- RUN(0x22, pos) past the build step. -/
  | bmsXchg (pos : BmsPos)
deriving DecidableEq, Repr

/-- The width of a host access (R62). -/
inductive AccessWidth where
  | byte
  | half
  | word
deriving DecidableEq, Repr

/-- One move of an agent. The engine's move is an engine step; the others are the host's and the reset input's
(R68, R76, R300). -/
inductive Turn where
  /-- One engine step (R11). -/
  | engine
  /-- `MemRead(addr, width)` (R8). -/
  | read (width : AccessWidth) (addr : Nat)
  /-- `MemWrite(addr, width, v)` (R8). -/
  | write (width : AccessWidth) (addr : Nat) (v : Word)
  /-- `POLL` (R100): read STATUS, and again after an engine step while BUSY is 1 (log 14). -/
  | poll
  /-- The reset input takes this level (R300). -/
  | rst (level : Bool)
deriving DecidableEq, Repr

/-- Everything the machine is. The fields to `rst` are the spec's; the last five are the model's own: the inputs still
to come and the outputs seen so far. -/
structure State where
  /-- The OPEN parameters (R5, R60); PARAM (R35) shows RXCAP. No step changes them. -/
  params : Params
  /-- SEQ (R23). -/
  seq : Seq
  /-- The latched operands (R42). -/
  latch : Latch
  /-- The framer's private CRC (R43). -/
  privCrc : Half
  /-- STATUS.BUSY (R25). -/
  busy : Bool
  /-- STATUS.DONE (R25). -/
  done : Bool
  /-- STATUS.CRC_OK (R25). -/
  crcOk : Bool
  /-- STATUS.OVR (R25). -/
  ovr : Bool
  /-- STATUS.RESULT (R25, R270). -/
  result : BitVec 4
  /-- CRC.CRC (R26). -/
  crc : Half
  /-- EXC.CODE (R27). -/
  exc : Byte
  /-- MB_ADDR.SLAVE (R28). -/
  slave : Byte
  /-- MB_ADDR.FUNC (R28). -/
  func : Byte
  /-- MB_RANGE.START (R29). -/
  start : Half
  /-- MB_RANGE.COUNT (R29). -/
  count : Half
  /-- BMS_CFG.BCMD (R30). -/
  bcmd : Byte
  /-- BMS_CFG.PLEN (R30). -/
  plen : Byte
  /-- TXLEN.LEN (R31). -/
  txlen : Half
  /-- RXLEN.LEN (R32). -/
  rxlen : Half
  /-- REGCNT.N (R33). -/
  regcnt : Half
  /-- CHUNKS.NREAD (R34). -/
  chunks : BitVec 3
  /-- TXBUF (R38). -/
  txbuf : List Host.Cell
  /-- RXBUF (R39). -/
  rxbuf : List Host.Cell
  /-- REGS (R40). -/
  regs : Memory 16
  /-- The level of the reset input (R300). -/
  rst : Bool
  /-- The turns still to be taken, the next first; when there is none the engine moves (log 8). -/
  agenda : List Turn
  /-- The transport's answers to come, the next first; when there is none the answer is drawn (log 3). -/
  answers : List Answer
  /-- How many answers were drawn from `Config.transportAnswer` (log 3). -/
  draws : Nat
  /-- The transactions PB has issued, oldest first (log 13). -/
  port : List Transaction
  /-- The words the host's reads have returned, oldest first (log 13). -/
  rdata : List Word
deriving DecidableEq, Repr

/-- The latches' value at reset: the spec leaves it unspecified, and every command that reads them writes them first
(DESIGN CHOICE, log 2). -/
def Latch.reset : Latch :=
  { slave := 0#8, func := 0#8, start := 0#16, count := 0#16, bcmd := 0#8, plen := 0#8 }

/-- The parameters of the machine `State.reset` describes: RXCAP at the spec's default (R5); BMS_CHUNK_MAX and PB_BASE
are DESIGN CHOICES (log 1). -/
def Params.default : Params :=
  { rxcap := 1024, chunkMax := 1024, pbBase := 0 }

/-- PB after power-on reset (R300, R301 and the table of 10_state.md section 5): every array entry unwritten, no input
pending, nothing observed yet. -/
def State.reset : State :=
  { params := Params.default
    seq := .idle
    latch := Latch.reset
    privCrc := 0#16
    busy := false
    done := false
    crcOk := false
    ovr := false
    result := 0#4
    crc := 0xFFFF#16
    exc := 0#8
    slave := 0#8
    func := 0#8
    start := 0#16
    count := 0#16
    bcmd := 0#8
    plen := 0#8
    txlen := 0#16
    rxlen := 0#16
    regcnt := 0#16
    chunks := 0#3
    txbuf := []
    rxbuf := []
    regs := []
    rst := false
    agenda := []
    answers := []
    draws := 0
    port := []
    rdata := [] }

end Sys2Proof.Machine
end

