-- ==== Sys2Proof/Machine/Flags.lean ====
section
/-!
DEFINITION. The result codes (spec/60_exceptions.md R270) and the STATUS word with its four flags (spec/10_state.md
R25, R37). The verdicts that set CRC_OK and RESULT are in Machine/Checksums.lean and Machine/Frames.lean.
-/
namespace Sys2Proof.Machine

/-- The outcomes of a command (R270). -/
inductive ResultCode where
  | ok
  | noResponse
  | deviceException
  | frameCorrupt
  | frameTooShort
  | checksumInvalid
  | badRequest
  | transportError
  | illegalCommand
deriving DecidableEq, Repr

/-- The number RESULT holds for an outcome (R270). -/
def ResultCode.code : ResultCode → BitVec 4
  | .ok => 0#4
  | .noResponse => 1#4
  | .deviceException => 2#4
  | .frameCorrupt => 3#4
  | .frameTooShort => 4#4
  | .checksumInvalid => 5#4
  | .badRequest => 6#4
  | .transportError => 7#4
  | .illegalCommand => 8#4

/-- The STATUS word (R25): BUSY bit 0, DONE bit 1, CRC_OK bit 2, OVR bit 3, RESULT bits [11:8], the rest 0. -/
def State.statusWord (s : State) : Word :=
  0#20 ++ s.result ++ 0#4 ++ BitVec.ofBool s.ovr ++ BitVec.ofBool s.crcOk ++ BitVec.ofBool s.done ++
    BitVec.ofBool s.busy

end Sys2Proof.Machine
end

