-- ==== Sys2Proof/Machine/Frames.lean ====
section
/-!
DEFINITION. The frames of spec/30_encoding.md section 2 as the rules build and decode them: the Modbus request and the
ordered decode (spec/41_modbus.md R150 to R155), the BMS request (spec/42_bms.md R202, R203).
-/
namespace Sys2Proof.Machine

/-- The six bytes a Modbus request's CRC covers (R94, R150). -/
def mbHeader (slave func : Byte) (start count : Half) : List Byte :=
  [slave, func, highByte start, lowByte start, highByte count, lowByte count]

/-- A CRC as it goes on the wire: low byte first (R64). -/
def crcBytes (c : Half) : List Byte := [lowByte c, highByte c]

/-- `mbRequest(slave, func, start, count)` (R150). -/
def mbRequest (slave func : Byte) (start count : Half) : List Byte :=
  mbHeader slave func start count ++ crcBytes (crc16 (mbHeader slave func start count))

/-- The legal requests of R151. -/
def mbLegal (func : Byte) (count : Half) : Bool :=
  (func == 0x03#8 || func == 0x04#8) && count != 0#16

/-- `mbExpected(count)`, an unbounded natural (R152). -/
def mbExpected (count : Half) : Nat := 3 + 2 * count.toNat + 2

/-- Bit 0x80 of the function-code echo (R96). -/
def exceptionFlag (b : Byte) : Bool := b &&& 0x80#8 != 0#8

/-- Payload bytes paired into Modbus registers, first byte high; an odd last byte is dropped (R155). -/
def pairRegs : List Byte → List Half
  | hi :: lo :: rest => (hi ++ lo) :: pairRegs rest
  | _ => []

/-- The result of a Modbus command (R154, R156): a decode's, or one of MB_READ's earlier steps. -/
inductive MbResult where
  | ok (regs : List Half)
  | noResponse
  | deviceException (code : Byte)
  | frameCorrupt
  | frameTooShort
  | badRequest
  | transportError
deriving DecidableEq, Repr

/-- The result code of a Modbus result (R270). -/
def MbResult.resultCode : MbResult → ResultCode
  | .ok _ => .ok
  | .noResponse => .noResponse
  | .deviceException _ => .deviceException
  | .frameCorrupt => .frameCorrupt
  | .frameTooShort => .frameTooShort
  | .badRequest => .badRequest
  | .transportError => .transportError

/-- `mbDecode(f)`, the five steps of R154 in their order. -/
def mbDecode (f : List Byte) : MbResult :=
  if f.length = 0 then .noResponse
  else if 3 ≤ f.length ∧ exceptionFlag (byteAt f 1) = true then .deviceException (byteAt f 2)
  else if verifyCrc16 f = false then .frameCorrupt
  else if f.length < 5 then .frameTooShort
  else if f.length - 2 < 3 + (byteAt f 2).toNat then .frameTooShort
  else .ok (pairRegs ((f.drop 3).take (byteAt f 2).toNat))

/-- The CRC `mbDecode` computes on `f`, none where it decides before step 3 or the length alone decides step 3 (R43,
R122, R154). -/
def mbDecodeCrc (f : List Byte) : Option Half :=
  if f.length < 3 then none
  else if exceptionFlag (byteAt f 1) = true then none
  else some (bodyCrc f)

/-- The seven bytes before a BMS request's payload (R97, R202). -/
def bmsHeader (cmd plen : Byte) : List Byte :=
  [0x3D#8, 0x01#8, 0x02#8, cmd, 0x01#8, 0x00#8, plen]

/-- `bmsRequest(cmd, payload)` for a payload of at most 255 bytes (R202). -/
def bmsRequest (cmd : Byte) (payload : List Byte) : List Byte :=
  bmsHeader cmd (BitVec.ofNat 8 payload.length) ++ payload ++
    [sum8 (bmsHeader cmd (BitVec.ofNat 8 payload.length) ++ payload)]

/-- The legal command codes of R203 (R98). -/
def bmsLegal (cmd : Byte) : Bool :=
  cmd == 0x00#8 || cmd == 0x27#8 || cmd == 0x2D#8 || cmd == 0x2E#8

end Sys2Proof.Machine
end

