-- ==== Sys2Proof/Machine/Memory.lean ====
section
/-!
DEFINITION. Reading and writing the data arrays (spec/10_state.md R38 to R41), and their canonical form.
-/
namespace Sys2Proof.Machine

/-- Entry `i`, or none where its written-bit is clear (R41). -/
def Memory.read {w : Nat} : Memory w → Nat → Option (BitVec w)
  | [], _ => none
  | (j, u) :: rest, i => if j = i then some u else Memory.read rest i

/-- Entry `i` becomes `v` and is written; the indices stay strictly rising. -/
def Memory.write {w : Nat} : Memory w → Nat → BitVec w → Memory w
  | [], i, v => [(i, v)]
  | (j, u) :: rest, i, v =>
    if i < j then (i, v) :: (j, u) :: rest
    else if i = j then (i, v) :: rest
    else (j, u) :: Memory.write rest i v

/-- Entries `base` to `base + n - 1` in index order, or none if one of them is unwritten (R41). -/
def Memory.readRange {w : Nat} (m : Memory w) : Nat → Nat → Option (List (BitVec w))
  | _, 0 => some []
  | base, n + 1 =>
    match m.read base with
    | none => none
    | some v =>
      match Memory.readRange m (base + 1) n with
      | none => none
      | some vs => some (v :: vs)

/-- `m[base .. base + len(vs)) <- vs` (R6, R7). -/
def Memory.writeRange {w : Nat} (m : Memory w) : Nat → List (BitVec w) → Memory w
  | _, [] => m
  | base, v :: vs => Memory.writeRange (m.write base v) (base + 1) vs

/-- The indices of `m` are strictly rising, none below `lo`, all below `size`. -/
def Memory.wfFrom {w : Nat} (size : Nat) : Nat → Memory w → Bool
  | _, [] => true
  | lo, (i, _) :: rest => decide (lo ≤ i) && decide (i < size) && Memory.wfFrom size (i + 1) rest

/-- The canonical form of an array of `size` entries: equal contents are equal lists. -/
def Memory.wf {w : Nat} (size : Nat) (m : Memory w) : Bool := Memory.wfFrom size 0 m

end Sys2Proof.Machine
end

