-- ==== Sys2Proof/Machine/Operands.lean ====
section
/-!
DEFINITION. Where a command's operands come from: the latches (spec/10_state.md R42), the valid bytes of the buffers
(R38, R39), and the register words' fields as the host writes and reads them (R24 to R35).
-/
namespace Sys2Proof.Machine

/-- `v[15:0]` of a word. -/
def lowHalf (v : Word) : Half := v.extractLsb' 0 16

/-- `v[31:16]` of a word. -/
def highHalf (v : Word) : Half := v.extractLsb' 16 16

/-- `v[7:0]` of a word. -/
def wordByte0 (v : Word) : Byte := v.extractLsb' 0 8

/-- `v[15:8]` of a word. -/
def wordByte1 (v : Word) : Byte := v.extractLsb' 8 8

/-- The configuration registers' fields as one latch record (R42). -/
def State.latchNow (s : State) : Latch :=
  { slave := s.slave, func := s.func, start := s.start, count := s.count, bcmd := s.bcmd, plen := s.plen }

/-- The opcodes whose start latches the operands: MB_BUILD, MB_READ, BMS_BUILD and BMS_XCHG (R42). -/
def latchesOperands (op : Byte) : Bool :=
  op == 0x10#8 || op == 0x12#8 || op == 0x20#8 || op == 0x22#8

/-- TXBUF[0..TXLEN) (R126), none where a byte is unwritten. -/
def State.txBytes (s : State) : Option (List Byte) := Memory.readRange s.txbuf 0 s.txlen.toNat

/-- RXBUF[0..RXLEN) (R127, R161, R211), none where a byte is unwritten. -/
def State.rxBytes (s : State) : Option (List Byte) := Memory.readRange s.rxbuf 0 s.rxlen.toNat

/-- The request payload TXBUF[7..7+PLEN) (R202, R38), none where a byte is unwritten. -/
def State.payload (s : State) : Option (List Byte) := Memory.readRange s.txbuf 7 s.latch.plen.toNat

/-- The room left in RXBUF: RXCAP - RXLEN (R205). -/
def State.room (s : State) : Nat := s.params.rxcap - s.rxlen.toNat

/-- The bytes the next BMS read asks for (R205). -/
def State.chunkSize (s : State) : Nat := min s.params.chunkMax s.room

/-- What a decode of RXBUF[0..RXLEN) gives, with the private CRC it leaves behind; none where it reads an unwritten
byte. With 3 bytes or more, step 2 of R154 reads bytes 1 and 2 and may decide on them alone; otherwise all bytes are
read (R161, log 6). -/
def State.decodeRx (s : State) : Option (MbResult × Half) :=
  if s.rxlen.toNat = 0 then some (.noResponse, s.privCrc)
  else if s.rxlen.toNat < 3 then
    match s.rxBytes with
    | none => none
    | some f => some (mbDecode f, (mbDecodeCrc f).getD s.privCrc)
  else
    match Memory.read s.rxbuf 1, Memory.read s.rxbuf 2 with
    | some echo, some code =>
      if exceptionFlag echo = true then some (.deviceException code, s.privCrc)
      else
        match s.rxBytes with
        | none => none
        | some f => some (mbDecode f, (mbDecodeCrc f).getD s.privCrc)
    | _, _ => none

end Sys2Proof.Machine
end

