-- ==== Sys2Proof/Machine/Ops.lean ====
section
/-!
DEFINITION. The operations the commands share: how a command starts (spec/43_control.md R253), how it ends (R254,
spec/00_scope.md R10, spec/41_modbus.md R156), the transactions on the transport port (spec/20_memory.md R75 to R79),
the reset (spec/70_reset_and_hazards.md R300 to R302), and what the engine runs next (spec/10_state.md R23).

PB takes no exception and returns from none (spec/60_exceptions.md R275): a failure is a result code, and
`State.complete` is the one operation by which a command reports it.
-/
namespace Sys2Proof.Machine

/-- The answer of one step of this machine. -/
abbrev StepResult := Host.Outcome State Fault Refusal

/-- The sequencer moves to `q`; nothing else changes. -/
def State.goto (s : State) (q : Seq) : State := { s with seq := q }

/-- Command start (R253): a host write of `v` to CMD with BUSY = 0. RESULT, CRC_OK and OVR keep their values. -/
def State.issue (s : State) (v : Word) : State :=
  { s with
    busy := true
    done := false
    seq := .start v
    latch := if latchesOperands (opField v) = true then s.latchNow else s.latch }

/-- `complete(res)` (R10, R254). -/
def State.complete (s : State) (res : ResultCode) : State :=
  { s with result := res.code, done := true, busy := false, seq := .idle }

/-- What a decode writes before it completes (R156): REGS and REGCNT on OK, the code in EXC on DeviceException, 0
elsewhere. -/
def State.writeDecode (s : State) : MbResult → State
  | .ok regs =>
    { s with
      regs := Memory.writeRange s.regs 0 regs
      regcnt := BitVec.ofNat 16 regs.length
      exc := 0#8 }
  | .deviceException code => { s with regcnt := 0#16, exc := code }
  | .noResponse => { s with regcnt := 0#16, exc := 0#8 }
  | .frameCorrupt => { s with regcnt := 0#16, exc := 0#8 }
  | .frameTooShort => { s with regcnt := 0#16, exc := 0#8 }
  | .badRequest => { s with regcnt := 0#16, exc := 0#8 }
  | .transportError => { s with regcnt := 0#16, exc := 0#8 }

/-- `finish(res)` of MB_READ, and the end of MB_DECODE (R156, R161, R162). -/
def State.finishMb (s : State) (res : MbResult) : State := (s.writeDecode res).complete res.resultCode

/-- The end of MB_DECODE and of MB_READ: decode RXBUF[0..RXLEN), write what R156 says, complete; UninitRead where the
decode reads an unwritten byte (R41). -/
def State.finishDecode (s : State) : StepResult :=
  match s.decodeRx with
  | none => .fault (.uninitRead .rxbuf)
  | some (res, c) => .next (State.finishMb { s with privCrc := c } res)

/-- The Modbus request of the latched operands is put in TXBUF[0..8), TXLEN becomes 8 (R160, R162); the framer's private
CRC holds the header's CRC (R43, R150). -/
def State.buildMb (s : State) : State :=
  { s with
    txbuf := Memory.writeRange s.txbuf 0 (mbRequest s.latch.slave s.latch.func s.latch.start s.latch.count)
    txlen := 8#16
    privCrc := crc16 (mbHeader s.latch.slave s.latch.func s.latch.start s.latch.count) }

/-- The BMS request of the latched operands around the payload already in TXBUF: the header at 0 to 6, the checksum at
7 + PLEN, TXLEN 8 + PLEN (R210, R212); the payload is read, never written. -/
def State.buildBms (s : State) (payload : List Byte) : State :=
  { s with
    txbuf := Memory.write (Memory.writeRange s.txbuf 0 (bmsHeader s.latch.bcmd s.latch.plen))
      (7 + s.latch.plen.toNat) (sum8 (bmsHeader s.latch.bcmd s.latch.plen ++ payload))
    txlen := BitVec.ofNat 16 (8 + s.latch.plen.toNat) }

/-- The result of a BMS check of the bytes received (R206, R211). -/
def bmsVerdict (f : List Byte) : ResultCode :=
  if f.length = 0 then .noResponse
  else if verifySum8 f = true then .ok
  else .checksumInvalid

/-- The end of BMS_CHECK and of BMS_XCHG (R211, R212); UninitRead where a byte of RXBUF[0..RXLEN) is unwritten. -/
def State.finishBms (s : State) : StepResult :=
  match s.rxBytes with
  | none => .fault (.uninitRead .rxbuf)
  | some f => .next (s.complete (bmsVerdict f))

/-- `RXBUF[at..at+len(bs)) <- bs; RXLEN <- at + len(bs)` (R162, and `append` of R212). -/
def State.storeRx (s : State) (base : Nat) (bs : List Byte) : State :=
  { s with
    rxbuf := Memory.writeRange s.rxbuf base bs
    rxlen := BitVec.ofNat 16 (base + bs.length) }

/-- Whether a transaction was answered Err (R79). -/
def answerErr : Answer → Bool
  | .err => true
  | .ok _ => false

/-- A read returns at most `max` bytes; what the device sent beyond them stays in the transport (R78, log 4). -/
def clipAnswer (max : Nat) : Answer → Answer
  | .err => .err
  | .ok bs => .ok (bs.take max)

/-- The transport's answer to the next transaction: the next one State lists, else a draw (R78, R79, log 3). -/
def State.answer (s : State) : Answer := s.answers.headD (Config.transportAnswer s.draws)

/-- PB issues `t`, which nothing answers: a wait (R75, R79). -/
def State.logged (s : State) (t : Transaction) : State := { s with port := s.port ++ [t] }

/-- PB issues `t` and the transport answers it: the answer is used up (R75, R78, R79). -/
def State.transacted (s : State) (t : Transaction) : State :=
  { s with
    port := s.port ++ [t]
    answers := s.answers.tail
    draws := if s.answers.isEmpty = true then s.draws + 1 else s.draws }

/-- One clear or write as an engine step: on Err the sequencer goes to `bad`, else to `good` (R79). -/
def State.transact (s : State) (t : Transaction) (good bad : Seq) : StepResult :=
  .next ((s.transacted t).goto (if answerErr s.answer = true then bad else good))

/-- The registers take their reset values and SEQ is IDLE; TXBUF, RXBUF and REGS keep their contents, and the transport
is left as it is (R300 to R302). The latches and the private CRC take the values of `State.reset` (log 2). -/
def State.applyReset (s : State) : State :=
  { State.reset with
    params := s.params
    txbuf := s.txbuf
    rxbuf := s.rxbuf
    regs := s.regs
    rst := s.rst
    agenda := s.agenda
    answers := s.answers
    draws := s.draws
    port := s.port
    rdata := s.rdata }

/-- What the engine runs next: nothing while IDLE, the command word at its first step, the running exchange after it
(R23, R253). -/
def State.fetch (s : State) : Option (Except DecodeError Instr) :=
  match s.seq with
  | .idle => none
  | .start cmd => some (decode cmd)
  | .mbRead _ => some (.ok .mbRead)
  | .bmsXchg _ => some (.ok .bmsXchg)

/-- Whose move is next: the agenda's first turn, the engine's where it is empty (R68, log 8). -/
def State.nextTurn (s : State) : Turn := s.agenda.headD .engine

/-- The turn is taken. -/
def State.popTurn (s : State) : State := { s with agenda := s.agenda.tail }

end Sys2Proof.Machine
end

