-- ==== Sys2Proof/Machine/Bms.lean ====
section
/-!
DEFINITION. The three commands of the BMS frame parser and multi-chunk reassembler (spec/42_bms.md R210 to R212).
-/
namespace Sys2Proof.Machine

/-- BMS_BUILD (R210), one engine step; UninitRead where a payload byte is unwritten. -/
def execBmsBuild (s : State) : StepResult :=
  if bmsLegal s.latch.bcmd = false then .next (s.complete .badRequest)
  else
    match s.payload with
    | none => .fault (.uninitRead .txbuf)
    | some p => .next ((s.buildBms p).complete .ok)

/-- BMS_CHECK (R211), one engine step. -/
def execBmsCheck (s : State) : StepResult := s.finishBms

/-- The read after `ix`, none after the third drain read (R204). -/
def ReadIx.following : ReadIx → Option ReadIx
  | .first => some .d1
  | .d1 => some .d2
  | .d2 => some .d3
  | .d3 => none

/-- Whether read `ix` returning `bs` ends the schedule: a drain read that yields nothing does, the first read never
(R204). -/
def stopsEarly (ix : ReadIx) (bs : List Byte) : Bool :=
  match ix with
  | .first => false
  | .d1 => bs.isEmpty
  | .d2 => bs.isEmpty
  | .d3 => bs.isEmpty

/-- Where the schedule goes once read `ix`'s bytes are appended: to the next drain read while one is left and RXBUF has
room, else to the closing clear (R204, R205). -/
def State.afterRead (s : State) (ix : ReadIx) : BmsPos :=
  match ix.following with
  | none => .closeIn
  | some next => if s.room = 0 then .closeIn else .drainWait next

/-- BMS_XCHG to its first transport call (R212); UninitRead where a payload byte is unwritten. -/
def bmsXchgBuild (s : State) : StepResult :=
  if bmsLegal s.latch.bcmd = false then .next (State.complete { s with chunks := 0#3 } .badRequest)
  else
    match s.payload with
    | none => .fault (.uninitRead .txbuf)
    | some p =>
      .next (State.goto { s.buildBms p with chunks := 0#3, rxlen := 0#16 }
        (.bmsXchg (.clearIn (bmsRequest s.latch.bcmd p))))

/-- The pseudocode after read `ix` has answered `bs` (R212): append, then go on or stop. -/
def State.appendChunk (s : State) (ix : ReadIx) (bs : List Byte) : State :=
  if stopsEarly ix bs = true then s.goto (.bmsXchg .closeIn)
  else (s.storeRx s.rxlen.toNat bs).goto (.bmsXchg ((s.storeRx s.rxlen.toNat bs).afterRead ix))

/-- BMS_XCHG at program point `p` (R212). -/
def bmsXchgAt (p : BmsPos) (s : State) : StepResult :=
  match p with
  | .clearIn fr => s.transact .clearIn (.bmsXchg (.clearOut fr)) (.bmsXchg .failed)
  | .clearOut fr => s.transact .clearOut (.bmsXchg (.write fr)) (.bmsXchg .failed)
  | .write fr => s.transact (.write fr) (.bmsXchg .settle) (.bmsXchg .failed)
  | .settle => .next ((s.logged (.wait .bmsSettle)).goto (.bmsXchg (.read .first)))
  | .drainWait ix => .next ((s.logged (.wait .bmsDrain)).goto (.bmsXchg (.read ix)))
  | .read ix =>
    .next ((s.transacted (.read s.chunkSize .bmsRdTimeout)).goto (.bmsXchg (.got ix (clipAnswer s.chunkSize s.answer))))
  | .got _ .err => .next (State.complete { s with chunks := s.chunks + 1#3 } .transportError)
  | .got ix (.ok bs) => .next (State.appendChunk { s with chunks := s.chunks + 1#3 } ix bs)
  | .closeIn => s.transact .clearIn (.bmsXchg .finish) (.bmsXchg .failed)
  | .failed => .next (s.complete .transportError)
  | .finish => s.finishBms

/-- BMS_XCHG (R212): the engine step at which the command stands. -/
def execBmsXchg (s : State) : StepResult :=
  match s.seq with
  | .bmsXchg p => bmsXchgAt p s
  | .idle => bmsXchgBuild s
  | .start _ => bmsXchgBuild s
  | .mbRead _ => bmsXchgBuild s

end Sys2Proof.Machine
end

