-- ==== Sys2Proof/Machine/Control.lean ====
section
/-!
DEFINITION. The control commands (spec/43_control.md): CLR_STATUS, and the completion of an illegal OP.
-/
namespace Sys2Proof.Machine

/-- CLR_STATUS (R251), one engine step, without `complete`. -/
def execClrStatus (s : State) : StepResult :=
  .next { s with ovr := false, crcOk := false, result := 0#4, done := false, busy := false, seq := .idle }

/-- An OP outside the opcode map (R252, R93), one engine step. -/
def runIllegal (s : State) : StepResult := .next (s.complete .illegalCommand)

end Sys2Proof.Machine
end

