-- ==== Sys2Proof/Machine/Crc.lean ====
section
/-!
DEFINITION. The four commands of the CRC-16 generator (spec/40_crc.md R124 to R127), each one engine step.
-/
namespace Sys2Proof.Machine

/-- CRC_INIT (R124). -/
def execCrcInit (s : State) : StepResult :=
  .next (State.complete { s with crc := 0xFFFF#16 } .ok)

/-- CRC_BYTE (R125). -/
def execCrcByte (arg : Byte) (s : State) : StepResult :=
  .next (State.complete { s with crc := crcStep s.crc arg } .ok)

/-- CRC_TX (R126); UninitRead where a byte of TXBUF[0..TXLEN) is unwritten. -/
def execCrcTx (s : State) : StepResult :=
  match s.txBytes with
  | none => .fault (.uninitRead .txbuf)
  | some f => .next (State.complete { s with crc := crc16 f } .ok)

/-- CRC_CHK (R127): CRC is written when 3 bytes or more are valid, CRC_OK always; UninitRead where a byte of
RXBUF[0..RXLEN) is unwritten (log 6). -/
def execCrcChk (s : State) : StepResult :=
  match s.rxBytes with
  | none => .fault (.uninitRead .rxbuf)
  | some f =>
    .next (State.complete
      { s with
        crc := if f.length < 3 then s.crc else bodyCrc f
        crcOk := verifyCrc16 f }
      (if verifyCrc16 f = true then .ok else .frameCorrupt))

end Sys2Proof.Machine
end

