-- ==== Sys2Proof/Machine/Modbus.lean ====
section
/-!
DEFINITION. The three commands of the Modbus RTU framer/deframer (spec/41_modbus.md R160 to R162).
-/
namespace Sys2Proof.Machine

/-- MB_BUILD (R160), one engine step. -/
def execMbBuild (s : State) : StepResult :=
  if mbLegal s.latch.func s.latch.count = true then .next (s.buildMb.complete .ok)
  else .next (s.complete .badRequest)

/-- MB_DECODE (R161), one engine step. -/
def execMbDecode (s : State) : StepResult := s.finishDecode

/-- MB_READ to its first transport call (R162): the checks of R151 and R153, then the build. -/
def mbReadBuild (s : State) : StepResult :=
  if mbLegal s.latch.func s.latch.count = false then .next (s.finishMb .badRequest)
  else if s.params.rxcap < mbExpected s.latch.count then .next (s.finishMb .badRequest)
  else
    .next (State.goto { s.buildMb with rxlen := 0#16 }
      (.mbRead (.clearIn (mbRequest s.latch.slave s.latch.func s.latch.start s.latch.count))))

/-- MB_READ at program point `p` (R162). -/
def mbReadAt (p : MbPos) (s : State) : StepResult :=
  match p with
  | .clearIn fr => s.transact .clearIn (.mbRead (.clearOut fr)) (.mbRead .failed)
  | .clearOut fr => s.transact .clearOut (.mbRead (.write fr)) (.mbRead .failed)
  | .write fr => s.transact (.write fr) (.mbRead .read) (.mbRead .failed)
  | .read =>
    .next ((s.transacted (.read (mbExpected s.latch.count) .mbTimeout)).goto
      (.mbRead (.got (clipAnswer (mbExpected s.latch.count) s.answer))))
  | .got .err => .next (s.finishMb .transportError)
  | .got (.ok bs) => .next ((s.storeRx 0 bs).goto (.mbRead .closeIn))
  | .closeIn => s.transact .clearIn (.mbRead .finish) (.mbRead .failed)
  | .failed => .next (s.finishMb .transportError)
  | .finish => s.finishDecode

/-- MB_READ (R162): the engine step at which the command stands. -/
def execMbRead (s : State) : StepResult :=
  match s.seq with
  | .mbRead p => mbReadAt p s
  | .idle => mbReadBuild s
  | .start _ => mbReadBuild s
  | .bmsXchg _ => mbReadBuild s

end Sys2Proof.Machine
end

