-- ==== Sys2Proof/Machine/Dispatch.lean ====
section
/-!
DEFINITION. The meaning of each command of spec/opcode_table.json: one engine step of it (spec/00_scope.md R11).
-/
namespace Sys2Proof.Machine

def exec (i : Instr) (s : State) : Host.Outcome State Fault Refusal :=
  match i with
  | .crcInit => Sys2Proof.Machine.execCrcInit s
  | .crcByte arg => Sys2Proof.Machine.execCrcByte arg s
  | .crcTx => Sys2Proof.Machine.execCrcTx s
  | .crcChk => Sys2Proof.Machine.execCrcChk s
  | .mbBuild => Sys2Proof.Machine.execMbBuild s
  | .mbDecode => Sys2Proof.Machine.execMbDecode s
  | .mbRead => Sys2Proof.Machine.execMbRead s
  | .bmsBuild => Sys2Proof.Machine.execBmsBuild s
  | .bmsCheck => Sys2Proof.Machine.execBmsCheck s
  | .bmsXchg => Sys2Proof.Machine.execBmsXchg s
  | .clrStatus => Sys2Proof.Machine.execClrStatus s

end Sys2Proof.Machine
end

