-- ==== Sys2Proof/Machine/HostPort.lean ====
section
/-!
DEFINITION. The host register space (spec/20_memory.md R60 to R67): which word an offset names, what a host read
returns, and what a host write does under the busy gate (spec/43_control.md R250).
-/
namespace Sys2Proof.Machine

/-- A word of the host register space (R60). -/
inductive Target where
  | cmd
  | status
  | crc
  | exc
  | mbAddr
  | mbRange
  | bmsCfg
  | txlen
  | rxlen
  | regcnt
  | chunks
  | param
  /-- TXBUF[i] (R38). -/
  | tx (i : Nat)
  /-- RXBUF[i], i below RXCAP (R39). -/
  | rx (i : Nat)
  /-- REGS[i] (R40). -/
  | reg (i : Nat)
  /-- A reserved word (R36, R39, R60). -/
  | reserved
deriving DecidableEq, Repr

/-- The register word `k` words into the window, in its first 1 KiB (R60, R36). -/
def registerAt : Nat → Target
  | 0 => .cmd
  | 1 => .status
  | 2 => .crc
  | 3 => .exc
  | 4 => .mbAddr
  | 5 => .mbRange
  | 6 => .bmsCfg
  | 7 => .txlen
  | 8 => .rxlen
  | 9 => .regcnt
  | 10 => .chunks
  | 11 => .param
  | _ => .reserved

/-- The word at byte offset `o`, whose bits [1:0] are ignored (R60, R62). -/
def targetAt (rxcap o : Nat) : Target :=
  if o / 4 < 0x100 then registerAt (o / 4)
  else if o / 4 < 0x300 then .tx (o / 4 - 0x100)
  else if o / 4 < 0x400 then .reserved
  else if o / 4 < 0x800 then (if o / 4 - 0x400 < rxcap then .rx (o / 4 - 0x400) else .reserved)
  else if o / 4 < 0x880 then .reg (o / 4 - 0x800)
  else .reserved

/-- An array entry as a host read returns it: zero-extended, none where it is unwritten (R38 to R41). -/
def entryWord {w : Nat} (m : Memory w) (i : Nat) : Option Word := (Memory.read m i).map (BitVec.setWidth 32)

/-- The word a host read of `t` returns (R24 to R40). A read has no side effect (R67). -/
def State.readTarget (s : State) : Target → Except Fault Word
  | .cmd => .ok 0#32
  | .status => .ok s.statusWord
  | .crc => .ok (s.crc.setWidth 32)
  | .exc => .ok (s.exc.setWidth 32)
  | .mbAddr => .ok (0#16 ++ s.func ++ s.slave)
  | .mbRange => .ok (s.count ++ s.start)
  | .bmsCfg => .ok (0#16 ++ s.plen ++ s.bcmd)
  | .txlen => .ok (s.txlen.setWidth 32)
  | .rxlen => .ok (s.rxlen.setWidth 32)
  | .regcnt => .ok (s.regcnt.setWidth 32)
  | .chunks => .ok (s.chunks.setWidth 32)
  | .param => .ok (BitVec.ofNat 16 Config.txcap ++ BitVec.ofNat 16 s.params.rxcap)
  | .tx i => match entryWord s.txbuf i with
    | some v => .ok v
    | none => .error (.uninitRead .txbuf)
  | .rx i => match entryWord s.rxbuf i with
    | some v => .ok v
    | none => .error (.uninitRead .rxbuf)
  | .reg i => match entryWord s.regs i with
    | some v => .ok v
    | none => .error (.uninitRead .regs)
  | .reserved => .ok 0#32

/-- The value a WARL length field stores: `min(v[15:0], cap)` (R31, R32). -/
def clampLength (v : Word) (cap : Nat) : Half := BitVec.ofNat 16 (min (lowHalf v).toNat cap)

/-- A host write of `v` to `t` with BUSY = 0 (R24 to R40). Writes to read-only and reserved words are ignored. -/
def State.writeIdle (s : State) (v : Word) : Target → State
  | .cmd => s.issue v
  | .status => s
  | .crc => { s with crc := lowHalf v }
  | .exc => s
  | .mbAddr => { s with slave := wordByte0 v, func := wordByte1 v }
  | .mbRange => { s with start := lowHalf v, count := highHalf v }
  | .bmsCfg => { s with bcmd := wordByte0 v, plen := wordByte1 v }
  | .txlen => { s with txlen := clampLength v Config.txcap }
  | .rxlen => { s with rxlen := clampLength v s.params.rxcap }
  | .regcnt => s
  | .chunks => s
  | .param => s
  | .tx i => { s with txbuf := Memory.write s.txbuf i (wordByte0 v) }
  | .rx i => { s with rxbuf := Memory.write s.rxbuf i (wordByte0 v) }
  | .reg _ => s
  | .reserved => s

/-- A host write to `t` with BUSY = 1: dropped. It sets OVR unless `t` is STATUS or reserved (R250). -/
def State.writeBusy (s : State) : Target → State
  | .status => s
  | .reserved => s
  | .cmd => { s with ovr := true }
  | .crc => { s with ovr := true }
  | .exc => { s with ovr := true }
  | .mbAddr => { s with ovr := true }
  | .mbRange => { s with ovr := true }
  | .bmsCfg => { s with ovr := true }
  | .txlen => { s with ovr := true }
  | .rxlen => { s with ovr := true }
  | .regcnt => { s with ovr := true }
  | .chunks => { s with ovr := true }
  | .param => { s with ovr := true }
  | .tx _ => { s with ovr := true }
  | .rx _ => { s with ovr := true }
  | .reg _ => { s with ovr := true }

/-- A host write of `v` to `t`: ignored while `rst` is asserted (R300), else under the busy gate (R250). -/
def State.writeTarget (s : State) (v : Word) (t : Target) : State :=
  if s.rst = true then s
  else if s.busy = true then s.writeBusy t
  else s.writeIdle v t

/-- The host reads the word `w`: the model records it (log 13). -/
def State.returned (s : State) (w : Word) : State := { s with rdata := s.rdata ++ [w] }

/-- The word a platform address names, none where it is outside PB's window (R60, log 12). -/
def State.target (s : State) (addr : Nat) : Option Target :=
  if s.params.pbBase ≤ addr ∧ addr < s.params.pbBase + Config.windowSize then
    some (targetAt s.params.rxcap (addr - s.params.pbBase))
  else none

/-- `MemRead(addr, width)` (R8, R62). -/
def hostRead (width : AccessWidth) (addr : Nat) (s : State) : StepResult :=
  match width with
  | .byte => .refused .refusedWidth
  | .half => .refused .refusedWidth
  | .word =>
    match s.target addr with
    | none => .fault (.outsideWindow addr)
    | some t =>
      match s.readTarget t with
      | .error e => .fault e
      | .ok v => .next (s.returned v)

/-- `MemWrite(addr, width, v)` (R8, R62). -/
def hostWrite (width : AccessWidth) (addr : Nat) (v : Word) (s : State) : StepResult :=
  match width with
  | .byte => .refused .refusedWidth
  | .half => .refused .refusedWidth
  | .word =>
    match s.target addr with
    | none => .fault (.outsideWindow addr)
    | some t => .next (s.writeTarget v t)

/-- One round of `POLL` (R100): read STATUS; while BUSY is 1, again after one engine step (log 14). -/
def hostPoll (s : State) : StepResult :=
  if s.busy = true then .next { s.returned s.statusWord with agenda := .engine :: .poll :: s.agenda }
  else .next (s.returned s.statusWord)

/-- The reset input takes a level (R300): while it is high PB is held in its reset state; when it falls PB is IDLE
(R303, log 11). -/
def resetInput (level : Bool) (s : State) : StepResult :=
  if level = true then .next { s.applyReset with rst := true } else .next { s with rst := false }

end Sys2Proof.Machine
end

