-- ==== Sys2Proof/Machine/Engine.lean ====
section
/-!
DEFINITION. One move of an agent (spec/20_memory.md R68, R76): an engine step runs the command that is fetched
(spec/10_state.md R23, spec/43_control.md R253), a host turn is one access, a reset turn sets the level of `rst`.
-/
namespace Sys2Proof.Machine

/-- One engine step. Nothing happens while `rst` is asserted or PB is IDLE (R282, R300, R303); an illegal OP completes
with IllegalCommand (R252). -/
def engineStep (s : State) : StepResult :=
  if s.rst = true then .next s
  else
    match s.fetch with
    | none => .next s
    | some (.ok i) => exec i s
    | some (.error _) => runIllegal s

/-- One turn. -/
def takeTurn (t : Turn) (s : State) : StepResult :=
  match t with
  | .engine => engineStep s
  | .read width addr => hostRead width addr s
  | .write width addr v => hostWrite width addr v s
  | .poll => hostPoll s
  | .rst level => resetInput level s

/-- `s` with the command word `v` started and the engine to move next: what a host write of `v` to CMD leaves (R253),
whatever ran before, with `rst` released. An empty agenda already lets the engine move (log 8, log 9). -/
def State.withCommand (s : State) (v : Word) : State :=
  { s.issue v with
    rst := false
    agenda := if s.agenda.isEmpty = true then [] else .engine :: s.agenda }

end Sys2Proof.Machine
end

