-- ==== Sys2Proof/Machine/Step.lean ====
section
/-!
DEFINITION. One step of the machine: the agent whose turn is next moves.
-/
namespace Sys2Proof.Machine

/-- The next turn of the agenda is taken, the engine's where the agenda is empty (R68, log 8). -/
def step (s : State) : Host.Outcome State Fault Refusal := takeTurn s.nextTurn s.popTurn

/-- `s` with the table word `w` as the started command, so that the next step runs it (log 9). A command is one 32-bit
word (R90); the bits above `nbits` are 0. -/
def State.withFetchWord (s : State) (nbits w : Nat) : State := s.withCommand (BitVec.ofNat 32 (w % 2 ^ nbits))

end Sys2Proof.Machine
end

