-- ==== Sys2Proof/Machine/Script.lean ====
section
/-!
DEFINITION. The host-script syntax of spec/30_encoding.md R100: its statements and pseudo-statements, and the host
accesses each expands to.
-/
namespace Sys2Proof.Machine

/-- A host-script statement (R100). A register is named by its byte offset, a command by its opcode. -/
inductive Stmt where
  /-- `WR <reg>, <v>`. -/
  | wr (offset : Nat) (v : Word)
  /-- `RD <reg>`. -/
  | rd (offset : Nat)
  /-- `TXB <i>, <b>`. -/
  | txb (i : Nat) (b : Byte)
  /-- `RXB <i>, <b>`. -/
  | rxb (i : Nat) (b : Byte)
  /-- `<MNEMONIC>` or `<MNEMONIC> <arg>`. -/
  | command (op arg : Byte)
  /-- `POLL`. -/
  | poll
  /-- `LOADTX b0, ..., bn-1`. -/
  | loadtx (bs : List Byte)
  /-- `LOADRX b0, ..., bn-1`. -/
  | loadrx (bs : List Byte)
  /-- `SETMB slave, fc, start, count`. -/
  | setmb (slave fc : Byte) (start count : Half)
  /-- `SETBMS cmd, plen`. -/
  | setbms (cmd plen : Byte)
  /-- `RUN <MNEMONIC> [arg]`. -/
  | run (op arg : Byte)
deriving DecidableEq, Repr

/-- `MemWrite(PB_BASE + offset, 4, v)`. -/
def wrTurn (base offset : Nat) (v : Word) : Turn := .write .word (base + offset) v

/-- The byte writes `array[i], array[i+1], ... <- bs`, the array's word 0 being at `offset`. -/
def byteTurns (base offset : Nat) : Nat → List Byte → List Turn
  | _, [] => []
  | i, b :: bs => wrTurn base (offset + 4 * i) (b.setWidth 32) :: byteTurns base offset (i + 1) bs

/-- The write of a command word `{16'h0000, arg, OP}` to CMD. -/
def commandTurn (base : Nat) (op arg : Byte) : Turn := wrTurn base 0x000 (0#16 ++ arg ++ op)

/-- The turns a statement expands to (R100), for PB at `base`. -/
def Stmt.turns (base : Nat) : Stmt → List Turn
  | .wr o v => [wrTurn base o v]
  | .rd o => [.read .word (base + o)]
  | .txb i b => byteTurns base 0x400 i [b]
  | .rxb i b => byteTurns base 0x1000 i [b]
  | .command op arg => [commandTurn base op arg]
  | .poll => [.poll]
  | .loadtx bs => byteTurns base 0x400 0 bs ++ [wrTurn base 0x01C (BitVec.ofNat 32 bs.length)]
  | .loadrx bs => byteTurns base 0x1000 0 bs ++ [wrTurn base 0x020 (BitVec.ofNat 32 bs.length)]
  | .setmb slave fc start count =>
    [wrTurn base 0x010 (0#16 ++ fc ++ slave), wrTurn base 0x014 (count ++ start)]
  | .setbms cmd plen => [wrTurn base 0x018 (0#16 ++ plen ++ cmd)]
  | .run op arg => [commandTurn base op arg, .poll]

/-- A whole script's turns, in order. -/
def scriptTurns (base : Nat) (script : List Stmt) : List Turn := script.flatMap (Stmt.turns base)

end Sys2Proof.Machine
end

