-- ==== Sys2Proof/Safety.lean ====
section
/-!
DEFINITION. What the claims are stated with: the invariant of every reachable state (ranges of the registers, canonical
form of the arrays, and what holds at each program point of a running exchange), and a run of several steps.
-/
namespace Sys2Proof.Machine

/-- The number of reads issued before read `ix` (R204, R34). -/
def ReadIx.index : ReadIx → Nat
  | .first => 0
  | .d1 => 1
  | .d2 => 2
  | .d3 => 3

/-- Every byte of RXBUF[0..RXLEN) is written. -/
def State.rxWritten (s : State) : Prop := s.rxBytes.isSome = true

/-- A running MB_READ passed the checks of R151 and R153. -/
def State.mbAdmitted (s : State) : Prop :=
  mbLegal s.latch.func s.latch.count = true ∧ mbExpected s.latch.count ≤ s.params.rxcap

/-- What holds at a program point of MB_READ: the frame to send is TXBUF[0..TXLEN) (R38), the read's answer fits what
was asked for (R78), and the bytes to decode are written. -/
def State.mbPosOk (s : State) : MbPos → Prop
  | .clearIn fr => s.mbAdmitted ∧ s.txBytes = some fr
  | .clearOut fr => s.mbAdmitted ∧ s.txBytes = some fr
  | .write fr => s.mbAdmitted ∧ s.txBytes = some fr
  | .read => s.mbAdmitted
  | .got .err => s.mbAdmitted
  | .got (.ok bs) => s.mbAdmitted ∧ bs.length ≤ mbExpected s.latch.count
  | .closeIn => s.rxWritten
  | .failed => True
  | .finish => s.rxWritten

/-- What holds at a program point of BMS_XCHG: CHUNKS counts the reads issued so far (R34), a read is only asked for
while RXBUF has room and its answer fits what was asked for (R205, R78), and the bytes received are written. -/
def State.bmsPosOk (s : State) : BmsPos → Prop
  | .clearIn fr => s.txBytes = some fr ∧ s.rxlen = 0#16 ∧ s.chunks = 0#3
  | .clearOut fr => s.txBytes = some fr ∧ s.rxlen = 0#16 ∧ s.chunks = 0#3
  | .write fr => s.txBytes = some fr ∧ s.rxlen = 0#16 ∧ s.chunks = 0#3
  | .settle => s.rxlen = 0#16 ∧ s.chunks = 0#3
  | .drainWait ix => s.rxWritten ∧ s.chunks.toNat = ix.index ∧ 0 < s.room
  | .read ix => s.rxWritten ∧ s.chunks.toNat = ix.index ∧ 0 < s.room
  | .got ix .err => s.rxWritten ∧ s.chunks.toNat = ix.index
  | .got ix (.ok bs) => s.rxWritten ∧ s.chunks.toNat = ix.index ∧ bs.length ≤ s.chunkSize
  | .closeIn => s.rxWritten
  | .failed => True
  | .finish => s.rxWritten

/-- What holds of the sequencer's place. -/
def State.seqOk (s : State) : Prop :=
  match s.seq with
  | .idle => True
  | .start _ => True
  | .mbRead p => s.mbPosOk p
  | .bmsXchg p => s.bmsPosOk p

/-- The invariant of PB: every reachable state meets it. -/
structure State.Inv (s : State) : Prop where
  /-- The parameters are in their ranges (R5). -/
  params : s.params.wf = true
  /-- SEQ = IDLE exactly when BUSY = 0 (R23). -/
  busy_iff : s.busy = false ↔ s.seq = .idle
  /-- DONE is cleared by the start of a command (R25). -/
  done_idle : s.busy = true → s.done = false
  /-- While `rst` is asserted PB is IDLE (R300). -/
  rst_idle : s.rst = true → s.seq = .idle
  /-- RESULT holds one of the codes 0 to 8 (R270, 93 I9). -/
  result_le : s.result.toNat ≤ 8
  /-- TXLEN is legal (R31). -/
  txlen_le : s.txlen.toNat ≤ Config.txcap
  /-- RXLEN is legal (R32). -/
  rxlen_le : s.rxlen.toNat ≤ s.params.rxcap
  /-- A decode yields at most 127 registers (R33, R5). -/
  regcnt_le : s.regcnt.toNat ≤ 127
  /-- At most four reads (R34). -/
  chunks_le : s.chunks.toNat ≤ 4
  /-- TXBUF is in canonical form, 512 bytes (R38). -/
  txbuf_wf : Memory.wf Config.txcap s.txbuf = true
  /-- RXBUF is in canonical form, RXCAP bytes (R39). -/
  rxbuf_wf : Memory.wf s.params.rxcap s.rxbuf = true
  /-- REGS is in canonical form, and REGS[127] is unwritten (R40). -/
  regs_wf : Memory.wf 127 s.regs = true
  /-- What holds at the sequencer's place. -/
  seq_ok : s.seqOk

/-- `n` steps of the machine, stopping at the first fault or refusal. -/
def runSteps : Nat → State → Host.Outcome State Fault Refusal
  | 0, s => .next s
  | n + 1, s =>
    match step s with
    | .next t => runSteps n t
    | .fault e => .fault e
    | .refused r => .refused r

/-- No other agent is about to move: `rst` is released and the engine has the turn from here on (log 8). -/
def State.engineAlone (s : State) : Prop := s.rst = false ∧ s.agenda = []

/-- A step, or a run, that neither faults nor is refused. -/
def Completes (o : Host.Outcome State Fault Refusal) : Prop := ∃ t, o = .next t

/-- `s` after a command has ended with result code `code` (R10). -/
def State.ended (s : State) (code : BitVec 4) : State :=
  { s with result := code, done := true, busy := false, seq := .idle }

/-- The byte offsets whose word is neither STATUS nor reserved (R60): a host write there while BUSY sets OVR (R250). -/
def writeGated (rxcap o : Nat) : Bool :=
  decide (o / 4 ≠ 1) &&
    (decide (o < 0x30) || (decide (0x400 ≤ o) && decide (o < 0xC00)) ||
      (decide (0x1000 ≤ o) && decide (o < 0x1000 + 4 * rxcap)) || (decide (0x2000 ≤ o) && decide (o < 0x2200)))

/-- The byte offsets whose word a host write changes while BUSY = 0 (R24 to R39): CMD, CRC, MB_ADDR, MB_RANGE, BMS_CFG,
TXLEN, RXLEN, TXBUF and RXBUF. -/
def writable (rxcap o : Nat) : Bool :=
  decide (o < 0x4) || (decide (0x8 ≤ o) && decide (o < 0xC)) || (decide (0x10 ≤ o) && decide (o < 0x24)) ||
    (decide (0x400 ≤ o) && decide (o < 0xC00)) || (decide (0x1000 ≤ o) && decide (o < 0x1000 + 4 * rxcap))

/-- The next step is an engine step of the command `i` (R11, R23). -/
def State.runs (s : State) (i : Instr) : Prop := s.rst = false ∧ s.nextTurn = .engine ∧ s.fetch = some (.ok i)

/-- The next step is a host write to the word `k` words into PB's window that takes effect: BUSY is 0 and `rst` is
released (R60, R250, R300). -/
def State.hostWrites (s : State) (k : Nat) : Prop :=
  s.rst = false ∧ s.busy = false ∧
    ∃ o v, o < Config.windowSize ∧ o / 4 = k ∧ s.nextTurn = .write .word (s.params.pbBase + o) v

/-- The entries of `m` from index `base` on are `vs` (R6). -/
def Holds {w : Nat} (m : Memory w) (base : Nat) (vs : List (BitVec w)) : Prop :=
  ∀ k, k < vs.length → Memory.read m (base + k) = vs[k]?

/-- `f` is RXBUF[0..RXLEN). -/
def State.rxIs (s : State) (f : List Byte) : Prop := f.length = s.rxlen.toNat ∧ Holds s.rxbuf 0 f

/-- A byte of RXBUF[0..RXLEN) is unwritten. -/
def State.rxHole (s : State) : Prop := ∃ k, k < s.rxlen.toNat ∧ Memory.read s.rxbuf k = none

/-- The exception code a Modbus response shows in bytes 1 and 2 (R154 step 2). -/
def State.rxException (s : State) (code : Byte) : Prop :=
  3 ≤ s.rxlen.toNat ∧ ∃ echo, Memory.read s.rxbuf 1 = some echo ∧ 128 ≤ echo.toNat ∧ Memory.read s.rxbuf 2 = some code

end Sys2Proof.Machine
end

