-- ==== Sys2Proof/Certificates/Slice0/Obligations.lean ====
section
/-!
DEFINITION. The statements about the model, for the provers. `s.ended code` is the state after `complete` (R10): RESULT
`code`, DONE 1, BUSY 0, SEQ IDLE, everything else as in `s`; an equation `exec i s = .next t` with `t` written as an
update of `s` therefore says the whole frame.

Whose turn is next (`agenda`), what the transport answers (`answers`, then a draw) and what one engine step is are the
model's form of the spec's interleavings, draws and program points (log 8, log 3, log 7); the statements that speak of
them hold for every value of these fields that meets their hypotheses.
-/

open Sys2Proof Sys2Proof.Machine

/-! ## The command word -/

/-- Encoding a command and decoding the word, or its four byte lanes with anything after them, gives the command back
(R90, R92), and the encoder writes every ignored bit as 0 (R91). -/
def Obligations.DecodeOfEncode : Prop :=
  ∀ (i : Instr) (rest : List Byte),
    decode (encode i) = .ok i ∧
    decodeBytes (wordBytes (encode i) ++ rest) = .ok (i, rest) ∧
    canonicalWord (encode i) = true

/-- Only OP, and ARG for CRC_BYTE, survive decoding: encoding what a word decodes to gives the word with the ignored
bits cleared (R91). -/
def Obligations.EncodeOfDecodeClearsIgnoredBits : Prop :=
  ∀ (w : Word) (i : Instr), decode w = .ok i →
    encode i = w &&& (if w &&& 0xFF#32 = 2#32 then 0xFFFF#32 else 0xFF#32)

/-- R91: words that agree in OP, and in ARG where OP is CRC_BYTE's, have the same meaning. -/
def Obligations.DecodeIgnoresReservedBits : Prop :=
  ∀ (w v : Word), w &&& 0xFF#32 = v &&& 0xFF#32 →
    (w &&& 0xFF#32 = 2#32 → w &&& 0xFF00#32 = v &&& 0xFF00#32) → decode w = decode v

/-- R93 and R252: a word whose OP is outside the map decodes to no command, and its engine step completes with
IllegalCommand (8) and changes nothing else; every OP of the map decodes to a command. -/
def Obligations.IllegalOpCompletesWithIllegalCommand : Prop :=
  (∀ (w : Word), w.toNat % 256 ∈ [0x01, 0x02, 0x03, 0x04, 0x10, 0x11, 0x12, 0x20, 0x21, 0x22, 0xF0] →
    ∃ i, decode w = .ok i) ∧
  (∀ (w : Word) (s : State),
    w.toNat % 256 ∉ [0x01, 0x02, 0x03, 0x04, 0x10, 0x11, 0x12, 0x20, 0x21, 0x22, 0xF0] →
    s.rst = false → s.nextTurn = .engine → s.seq = .start w →
    (∃ e, decode w = .error e) ∧ step s = .next (s.popTurn.ended 8#4))

/-- A few command words, written out from R90 and R92, decode to their commands. -/
def Obligations.SampleWordsDecode : Prop :=
  decode 0x00000001#32 = .ok .crcInit ∧ decode 0x00003102#32 = .ok (.crcByte 0x31#8) ∧
  decode 0xFFFF5504#32 = .ok .crcChk ∧ decode 0x00000010#32 = .ok .mbBuild ∧
  decode 0x00000012#32 = .ok .mbRead ∧ decode 0x00000022#32 = .ok .bmsXchg ∧
  decode 0x000000F0#32 = .ok .clrStatus ∧ decode 0x00000013#32 = .error (.illegalOp 0x13#8)

/-! ## Steps, the host and the reset input -/

/-- A step on the engine's turn, with `rst` released, runs the command word that stands at its first engine step, or the
exchange that is running; `popTurn` is the turn being taken. `withFetchWord` puts a table word there. (The agenda is
the model's, log 8; what `withFetchWord` stands for is log 9.) -/
def Obligations.StepRunsDecodedCommand : Prop :=
  (∀ (s : State) (w : Word) (i : Instr), s.rst = false → s.nextTurn = .engine → s.seq = .start w →
    decode w = .ok i → step s = exec i s.popTurn) ∧
  (∀ (s : State) (p : MbPos), s.rst = false → s.nextTurn = .engine → s.seq = .mbRead p →
    step s = exec .mbRead s.popTurn) ∧
  (∀ (s : State) (p : BmsPos), s.rst = false → s.nextTurn = .engine → s.seq = .bmsXchg p →
    step s = exec .bmsXchg s.popTurn) ∧
  (∀ (s : State) (n w : Nat) (i : Instr), decodeTableWord n w = some i →
    step (s.withFetchWord n w) = exec i (s.withFetchWord n w).popTurn)

/-- R253: a host write of `v` to CMD (address bits [1:0] ignored) with BUSY = 0 sets BUSY, clears DONE, moves SEQ to the
start of the command, latches the operands where R42 says so, and leaves all else; a STATUS read then shows BUSY = 1,
DONE = 0, and the command's first engine step is what the engine runs next. -/
def Obligations.CmdWriteStartsCommand : Prop :=
  ∀ (s : State) (v : Word) (k : Nat) (rest : List Turn), k < 4 → s.rst = false → s.busy = false →
    s.agenda = .write .word (s.params.pbBase + k) v :: rest →
    ∃ t, step s = .next t ∧
      t = { s with
        agenda := rest
        busy := true
        done := false
        seq := .start v
        latch :=
          if v.toNat % 256 ∈ [0x10, 0x12, 0x20, 0x22] then
            { slave := s.slave, func := s.func, start := s.start, count := s.count, bcmd := s.bcmd, plen := s.plen }
          else s.latch } ∧
      t.statusWord.toNat % 4 = 1 ∧ t.fetch = some (decode v)

/-- The busy gate of R250: with BUSY = 1 a host write anywhere in the window changes nothing but OVR, which it sets
unless the word is STATUS or reserved; whether a host read is answered does not depend on BUSY. -/
def Obligations.BusyGateDropsHostWrites : Prop :=
  (∀ (s : State) (v : Word) (o : Nat) (rest : List Turn), o < 0x4000 → s.params.wf = true → s.rst = false →
    s.busy = true → s.agenda = .write .word (s.params.pbBase + o) v :: rest →
    step s = .next { s with agenda := rest, ovr := s.ovr || writeGated s.params.rxcap o }) ∧
  (∀ (s : State) (a : Nat) (rest : List Turn), s.agenda = .read .word a :: rest →
    (Completes (step { s with busy := true }) ↔ Completes (step { s with busy := false })))

/-- Host writes with BUSY = 0 and `rst` released: each writable word but CMD stores its field (R26, R28 to R32, R38, R39),
TXLEN and RXLEN clamped; a word that is not writable ignores the write. -/
def Obligations.IdleHostWritesStoreFields : Prop :=
  ∀ (s : State) (v : Word) (o : Nat) (rest : List Turn), o < 0x4000 → s.params.wf = true → s.rst = false →
    s.busy = false → s.agenda = .write .word (s.params.pbBase + o) v :: rest →
    (o / 4 = 2 → step s = .next { s with agenda := rest, crc := BitVec.ofNat 16 v.toNat }) ∧
    (o / 4 = 4 → step s = .next { s with
      agenda := rest, slave := BitVec.ofNat 8 v.toNat, func := BitVec.ofNat 8 (v.toNat / 256) }) ∧
    (o / 4 = 5 → step s = .next { s with
      agenda := rest, start := BitVec.ofNat 16 v.toNat, count := BitVec.ofNat 16 (v.toNat / 65536) }) ∧
    (o / 4 = 6 → step s = .next { s with
      agenda := rest, bcmd := BitVec.ofNat 8 v.toNat, plen := BitVec.ofNat 8 (v.toNat / 256) }) ∧
    (o / 4 = 7 → step s = .next { s with
      agenda := rest, txlen := BitVec.ofNat 16 (min (v.toNat % 65536) 512) }) ∧
    (o / 4 = 8 → step s = .next { s with
      agenda := rest, rxlen := BitVec.ofNat 16 (min (v.toNat % 65536) s.params.rxcap) }) ∧
    (∀ i, i < 512 → o / 4 = 0x100 + i → ∃ t, step s = .next t ∧
      t = { s with agenda := rest, txbuf := t.txbuf } ∧
      ∀ k, Memory.read t.txbuf k = if k = i then some (BitVec.ofNat 8 v.toNat) else Memory.read s.txbuf k) ∧
    (∀ i, i < s.params.rxcap → o / 4 = 0x400 + i → ∃ t, step s = .next t ∧
      t = { s with agenda := rest, rxbuf := t.rxbuf } ∧
      ∀ k, Memory.read t.rxbuf k = if k = i then some (BitVec.ofNat 8 v.toNat) else Memory.read s.rxbuf k) ∧
    (writable s.params.rxcap o = false → step s = .next { s with agenda := rest })

/-- What a host read returns from each register word (R24 to R35) and from a reserved word (R36), as numbers; nothing
else changes. -/
def Obligations.HostReadReturnsRegisters : Prop :=
  ∀ (s : State) (o : Nat) (rest : List Turn), o < 0x4000 → s.params.wf = true →
    s.agenda = .read .word (s.params.pbBase + o) :: rest →
    (o / 4 = 0 → step s = .next { s with agenda := rest, rdata := s.rdata ++ [0#32] }) ∧
    (o / 4 = 1 → step s = .next { s with agenda := rest, rdata := s.rdata ++ [BitVec.ofNat 32
      (s.busy.toNat + 2 * s.done.toNat + 4 * s.crcOk.toNat + 8 * s.ovr.toNat + 256 * s.result.toNat)] }) ∧
    (o / 4 = 2 → step s = .next { s with agenda := rest, rdata := s.rdata ++ [BitVec.ofNat 32 s.crc.toNat] }) ∧
    (o / 4 = 3 → step s = .next { s with agenda := rest, rdata := s.rdata ++ [BitVec.ofNat 32 s.exc.toNat] }) ∧
    (o / 4 = 4 → step s = .next { s with agenda := rest, rdata := s.rdata ++ [BitVec.ofNat 32
      (s.slave.toNat + 256 * s.func.toNat)] }) ∧
    (o / 4 = 5 → step s = .next { s with agenda := rest, rdata := s.rdata ++ [BitVec.ofNat 32
      (s.start.toNat + 65536 * s.count.toNat)] }) ∧
    (o / 4 = 6 → step s = .next { s with agenda := rest, rdata := s.rdata ++ [BitVec.ofNat 32
      (s.bcmd.toNat + 256 * s.plen.toNat)] }) ∧
    (o / 4 = 7 → step s = .next { s with agenda := rest, rdata := s.rdata ++ [BitVec.ofNat 32 s.txlen.toNat] }) ∧
    (o / 4 = 8 → step s = .next { s with agenda := rest, rdata := s.rdata ++ [BitVec.ofNat 32 s.rxlen.toNat] }) ∧
    (o / 4 = 9 → step s = .next { s with agenda := rest, rdata := s.rdata ++ [BitVec.ofNat 32 s.regcnt.toNat] }) ∧
    (o / 4 = 10 → step s = .next { s with agenda := rest, rdata := s.rdata ++ [BitVec.ofNat 32 s.chunks.toNat] }) ∧
    (o / 4 = 11 → step s = .next { s with agenda := rest, rdata := s.rdata ++ [BitVec.ofNat 32
      (s.params.rxcap + 65536 * 512)] }) ∧
    (writeGated s.params.rxcap o = false → o / 4 ≠ 1 →
      step s = .next { s with agenda := rest, rdata := s.rdata ++ [0#32] })

/-- R41 for the host: a read of a written entry of TXBUF, RXBUF or REGS returns it zero-extended and changes nothing
else; a read of an unwritten one is the fault UninitRead. -/
def Obligations.HostReadsOfArrayEntries : Prop :=
  ∀ (s : State) (o i : Nat) (rest : List Turn),
    s.params.wf = true → s.agenda = .read .word (s.params.pbBase + o) :: rest →
    (i < 512 → o / 4 = 0x100 + i →
      (∀ b, Memory.read s.txbuf i = some b →
        step s = .next { s with agenda := rest, rdata := s.rdata ++ [BitVec.ofNat 32 b.toNat] }) ∧
      (Memory.read s.txbuf i = none → step s = .fault (.uninitRead .txbuf))) ∧
    (i < s.params.rxcap → o / 4 = 0x400 + i →
      (∀ b, Memory.read s.rxbuf i = some b →
        step s = .next { s with agenda := rest, rdata := s.rdata ++ [BitVec.ofNat 32 b.toNat] }) ∧
      (Memory.read s.rxbuf i = none → step s = .fault (.uninitRead .rxbuf))) ∧
    (i < 128 → o / 4 = 0x800 + i →
      (∀ h, Memory.read s.regs i = some h →
        step s = .next { s with agenda := rest, rdata := s.rdata ++ [BitVec.ofNat 32 h.toNat] }) ∧
      (Memory.read s.regs i = none → step s = .fault (.uninitRead .regs)))

/-- R67: a host read changes nothing but what the host has read, and the same read again returns the same word. -/
def Obligations.HostReadHasNoSideEffect : Prop :=
  (∀ (s t : State) (wd : AccessWidth) (a : Nat) (rest : List Turn), s.agenda = .read wd a :: rest →
    step s = .next t → ∃ v, t = { s with agenda := rest, rdata := s.rdata ++ [v] }) ∧
  (∀ (s t : State) (wd : AccessWidth) (a : Nat) (rest : List Turn),
    s.agenda = .read wd a :: .read wd a :: rest → runSteps 2 s = .next t →
    ∃ v, t = { s with agenda := rest, rdata := s.rdata ++ [v, v] })

/-- R62: an access of width 1 or 2 is refused; an access at an offset that is not a multiple of 4 is the access at the
multiple of 4 below it. -/
def Obligations.AccessWidthAndLowAddressBits : Prop :=
  (∀ (s : State) (wd : AccessWidth) (a : Nat) (rest : List Turn), wd ≠ .word → s.agenda = .read wd a :: rest →
    step s = .refused .refusedWidth) ∧
  (∀ (s : State) (wd : AccessWidth) (a : Nat) (v : Word) (rest : List Turn), wd ≠ .word →
    s.agenda = .write wd a v :: rest → step s = .refused .refusedWidth) ∧
  (∀ (s : State) (o : Nat) (rest : List Turn), o < 0x4000 →
    step { s with agenda := .read .word (s.params.pbBase + o) :: rest } =
      step { s with agenda := .read .word (s.params.pbBase + (o - o % 4)) :: rest }) ∧
  (∀ (s : State) (o : Nat) (v : Word) (rest : List Turn), o < 0x4000 →
    step { s with agenda := .write .word (s.params.pbBase + o) v :: rest } =
      step { s with agenda := .write .word (s.params.pbBase + (o - o % 4)) v :: rest })

/-- R300 and R301: asserting `rst` gives every PB register its reset value, ends any command without a transaction, and
leaves TXBUF, RXBUF and REGS; while it is asserted host writes are ignored and the engine does nothing. The power-on
state has the same register values and no entry written. (Latches and private CRC are left out: their reset value is the
model's choice, log 2. That `rst` is a level set by a turn is the model's reading, log 11.) -/
def Obligations.ResetInputSetsRegisters : Prop :=
  (∀ (s : State) (rest : List Turn), s.agenda = .rst true :: rest →
    ∃ t, step s = .next t ∧ t.seq = .idle ∧ t.statusWord = 0#32 ∧ t.crc = 0xFFFF#16 ∧ t.exc = 0#8 ∧
      t.slave = 0#8 ∧ t.func = 0#8 ∧ t.start = 0#16 ∧ t.count = 0#16 ∧ t.bcmd = 0#8 ∧ t.plen = 0#8 ∧
      t.txlen = 0#16 ∧ t.rxlen = 0#16 ∧ t.regcnt = 0#16 ∧ t.chunks = 0#3 ∧ t.params = s.params ∧
      t.txbuf = s.txbuf ∧ t.rxbuf = s.rxbuf ∧ t.regs = s.regs ∧ t.port = s.port ∧ t.rdata = s.rdata ∧
      t.rst = true ∧ t.agenda = rest) ∧
  (∀ (s : State) (o : Nat) (v : Word) (rest : List Turn), o < 0x4000 → s.rst = true →
    s.agenda = .write .word (s.params.pbBase + o) v :: rest → step s = .next { s with agenda := rest }) ∧
  (∀ (s : State) (rest : List Turn), s.rst = true → s.agenda = .engine :: rest →
    step s = .next { s with agenda := rest }) ∧
  (State.reset.seq = .idle ∧ State.reset.statusWord = 0#32 ∧ State.reset.crc = 0xFFFF#16 ∧ State.reset.exc = 0#8 ∧
    State.reset.slave = 0#8 ∧ State.reset.func = 0#8 ∧ State.reset.start = 0#16 ∧ State.reset.count = 0#16 ∧
    State.reset.bcmd = 0#8 ∧ State.reset.plen = 0#8 ∧ State.reset.txlen = 0#16 ∧ State.reset.rxlen = 0#16 ∧
    State.reset.regcnt = 0#16 ∧ State.reset.chunks = 0#3) ∧
  (∀ i, Memory.read State.reset.txbuf i = none ∧ Memory.read State.reset.rxbuf i = none ∧
    Memory.read State.reset.regs i = none)

/-- R303 and R282: an IDLE machine to which nobody turns stays as it is. -/
def Obligations.IdleMachineStays : Prop :=
  ∀ (s : State), s.agenda = [] → s.seq = .idle → ∀ n, runSteps n s = .next s

/-! ## The invariant -/

/-- The state after power-on reset meets the invariant. -/
def Obligations.ResetMeetsInvariant : Prop := State.reset.Inv

/-- Every step of every agent keeps the invariant: BUSY agrees with SEQ (R23), DONE is 0 while BUSY (R25), RESULT is one
of the codes 0 to 8 (R270), lengths and counts stay in range (R31 to R34), the three arrays stay canonical and inside
their sizes, with REGS[127] never written (R38 to R40), and at each program point of an exchange what the later steps
rely on. -/
def Obligations.StepKeepsInvariant : Prop :=
  ∀ (s t : State), s.Inv → step s = .next t → t.Inv

/-! ## CRC commands -/

/-- R120 as arithmetic on numbers: crcStep is the byte folded into the low bits, then eight halvings, each followed by
an exclusive or with 0xA001 when the bit shifted out is 1. -/
def Obligations.CrcStepIsEightShifts : Prop :=
  ∀ (c : Half) (b : Byte),
    crcStep c b =
      (fun x : Half => if x.toNat % 2 = 1 then BitVec.ofNat 16 (x.toNat / 2) ^^^ 0xA001#16
        else BitVec.ofNat 16 (x.toNat / 2))^[8] (c ^^^ BitVec.ofNat 16 b.toNat)

/-- R121: crc16 starts at 0xFFFF and folds bytes in order; appending a byte is one crcStep. -/
def Obligations.CrcOfAppendedByte : Prop :=
  crc16 [] = 0xFFFF#16 ∧ ∀ (s : List Byte) (b : Byte), crc16 (s ++ [b]) = crcStep (crc16 s) b

/-- The round trip of R123, with the correction of 90 C1: a non-empty sequence with its CRC appended, low byte first,
verifies; the empty one does not. -/
def Obligations.CrcRoundTripVerifies : Prop :=
  (∀ (s : List Byte), s ≠ [] →
    verifyCrc16 (s ++ [BitVec.ofNat 8 (crc16 s).toNat, BitVec.ofNat 8 ((crc16 s).toNat / 256)]) = true) ∧
  verifyCrc16 ([] ++ [BitVec.ofNat 8 (crc16 []).toNat, BitVec.ofNat 8 ((crc16 []).toNat / 256)]) = false

/-- The single-bit detection of R123: flipping any one bit of a frame of at least three bytes that verifies makes it
fail. -/
def Obligations.CrcDetectsSingleBitFlip : Prop :=
  ∀ (f : List Byte) (i b : Nat) (x : Byte), verifyCrc16 f = true → f[i]? = some x → b < 8 →
    verifyCrc16 (f.set i (x ^^^ (1#8 <<< b))) = false

/-- R124, CRC_INIT: its encoding and its effect. -/
def Obligations.CrcInitResult : Prop :=
  (∀ (w : Word), w.toNat % 256 = 0x01 → decode w = .ok .crcInit) ∧
  (∀ (s : State), exec .crcInit s = .next (State.ended { s with crc := 0xFFFF#16 } 0#4))

/-- R125, CRC_BYTE: its encoding and its effect. -/
def Obligations.CrcByteResult : Prop :=
  (∀ (w : Word), w.toNat % 256 = 0x02 → decode w = .ok (.crcByte (BitVec.ofNat 8 (w.toNat / 256)))) ∧
  (∀ (b : Byte) (s : State), exec (.crcByte b) s = .next (State.ended { s with crc := crcStep s.crc b } 0#4))

/-- R126, CRC_TX: its encoding, its effect for every TXLEN whose bytes are written, UninitRead where one is not. -/
def Obligations.CrcTxResult : Prop :=
  (∀ (w : Word), w.toNat % 256 = 0x03 → decode w = .ok .crcTx) ∧
  (∀ (s : State) (f : List Byte), f.length = s.txlen.toNat → Holds s.txbuf 0 f →
    exec .crcTx s = .next (State.ended { s with crc := crc16 f } 0#4)) ∧
  (∀ (s : State), (∃ k, k < s.txlen.toNat ∧ Memory.read s.txbuf k = none) →
    exec .crcTx s = .fault (.uninitRead .txbuf))

/-- R127, CRC_CHK: its encoding; fewer than 3 bytes fail with CRC unchanged; otherwise CRC becomes the CRC of all bytes
but the last two, and the verdict is whether those two are its low and its high byte; UninitRead where a byte is
unwritten. -/
def Obligations.CrcChkResult : Prop :=
  (∀ (w : Word), w.toNat % 256 = 0x04 → decode w = .ok .crcChk) ∧
  (∀ (s : State) (f : List Byte), s.rxIs f → f.length < 3 →
    exec .crcChk s = .next (State.ended { s with crcOk := false } 3#4)) ∧
  (∀ (s : State) (body : List Byte) (lo hi : Byte), s.rxIs (body ++ [lo, hi]) → body ≠ [] →
    (lo.toNat + 256 * hi.toNat = (crc16 body).toNat →
      exec .crcChk s = .next (State.ended { s with crc := crc16 body, crcOk := true } 0#4)) ∧
    (lo.toNat + 256 * hi.toNat ≠ (crc16 body).toNat →
      exec .crcChk s = .next (State.ended { s with crc := crc16 body, crcOk := false } 3#4))) ∧
  (∀ (s : State), s.rxHole → exec .crcChk s = .fault (.uninitRead .rxbuf))

/-! ## Modbus commands -/

/-- R160 with R150 and R151, MB_BUILD: its encoding; a legal request puts the six header bytes and their CRC, low byte
first, in TXBUF[0..8) and 8 in TXLEN; an illegal one completes with BadRequest and changes nothing else. -/
def Obligations.MbBuildResult : Prop :=
  (∀ (w : Word), w.toNat % 256 = 0x10 → decode w = .ok .mbBuild) ∧
  (∀ (s : State), (s.latch.func = 3#8 ∨ s.latch.func = 4#8) → s.latch.count ≠ 0#16 →
    ∃ t c, exec .mbBuild s = .next t ∧
      t = State.ended { s with txbuf := t.txbuf, txlen := 8#16, privCrc := c } 0#4 ∧
      c = crc16 [s.latch.slave, s.latch.func, BitVec.ofNat 8 (s.latch.start.toNat / 256),
        BitVec.ofNat 8 s.latch.start.toNat, BitVec.ofNat 8 (s.latch.count.toNat / 256),
        BitVec.ofNat 8 s.latch.count.toNat] ∧
      Holds t.txbuf 0 [s.latch.slave, s.latch.func, BitVec.ofNat 8 (s.latch.start.toNat / 256),
        BitVec.ofNat 8 s.latch.start.toNat, BitVec.ofNat 8 (s.latch.count.toNat / 256),
        BitVec.ofNat 8 s.latch.count.toNat, BitVec.ofNat 8 c.toNat, BitVec.ofNat 8 (c.toNat / 256)] ∧
      ∀ k, 8 ≤ k → Memory.read t.txbuf k = Memory.read s.txbuf k) ∧
  (∀ (s : State), ((s.latch.func ≠ 3#8 ∧ s.latch.func ≠ 4#8) ∨ s.latch.count = 0#16) →
    exec .mbBuild s = .next (s.ended 6#4))

/-- R161 with R154 to R156, MB_DECODE: its encoding and, in the order of R154, the results of the decode: which codes,
what REGCNT, EXC and REGS become, and that nothing else changes (the private CRC apart). -/
def Obligations.MbDecodeResult : Prop :=
  (∀ (w : Word), w.toNat % 256 = 0x11 → decode w = .ok .mbDecode) ∧
  (∀ (s : State), s.rxlen = 0#16 → exec .mbDecode s = .next (State.ended { s with regcnt := 0#16, exc := 0#8 } 1#4)) ∧
  (∀ (s : State) (code : Byte), s.rxException code →
    exec .mbDecode s = .next (State.ended { s with regcnt := 0#16, exc := code } 2#4)) ∧
  (∀ (s : State) (f : List Byte), s.rxIs f → f ≠ [] → (∀ code, ¬ s.rxException code) →
    (verifyCrc16 f = false → ∃ c, exec .mbDecode s =
      .next (State.ended { s with regcnt := 0#16, exc := 0#8, privCrc := c } 3#4)) ∧
    (verifyCrc16 f = true → f.length < 5 → ∃ c, exec .mbDecode s =
      .next (State.ended { s with regcnt := 0#16, exc := 0#8, privCrc := c } 4#4)) ∧
    (∀ bc, verifyCrc16 f = true → f[2]? = some bc → f.length < 5 + bc.toNat → ∃ c, exec .mbDecode s =
      .next (State.ended { s with regcnt := 0#16, exc := 0#8, privCrc := c } 4#4)) ∧
    (∀ bc, verifyCrc16 f = true → f[2]? = some bc → 5 + bc.toNat ≤ f.length → ∃ t c, exec .mbDecode s = .next t ∧
      t = State.ended { s with
        regs := t.regs, regcnt := BitVec.ofNat 16 (bc.toNat / 2), exc := 0#8, privCrc := c } 0#4 ∧
      (∀ k, k < bc.toNat / 2 → ∃ hi lo, f[3 + 2 * k]? = some hi ∧ f[4 + 2 * k]? = some lo ∧
        Memory.read t.regs k = some (BitVec.ofNat 16 (256 * hi.toNat + lo.toNat))) ∧
      (∀ k, bc.toNat / 2 ≤ k → Memory.read t.regs k = Memory.read s.regs k))) ∧
  (∀ (s : State), s.rxHole → (∀ code, ¬ s.rxException code) → exec .mbDecode s = .fault (.uninitRead .rxbuf))

/-- R45: what MB_DECODE and BMS_CHECK leave in RESULT, REGCNT and EXC, the registers of a successful decode, and
whether they fault, depend on RXBUF[0..RXLEN) alone. -/
def Obligations.DecodeDependsOnlyOnReceivedBytes : Prop :=
  ∀ (s s' : State), s.rxlen = s'.rxlen →
    (∀ k, k < s.rxlen.toNat → Memory.read s.rxbuf k = Memory.read s'.rxbuf k) →
    (∀ t, exec .mbDecode s = .next t → ∃ t', exec .mbDecode s' = .next t' ∧ t'.result = t.result ∧
      t'.regcnt = t.regcnt ∧ t'.exc = t.exc ∧
      ∀ k, k < t.regcnt.toNat → Memory.read t'.regs k = Memory.read t.regs k) ∧
    (∀ t, exec .bmsCheck s = .next t → ∃ t', exec .bmsCheck s' = .next t' ∧ t'.result = t.result) ∧
    (∀ e, exec .mbDecode s = .fault e → exec .mbDecode s' = .fault e) ∧
    (∀ e, exec .bmsCheck s = .fault e → exec .bmsCheck s' = .fault e)

/-- R151 and R153 for MB_READ at its first engine step: an illegal function code, a count of 0, or an expected response
that RXBUF cannot hold completes with BadRequest; REGCNT and EXC become 0 (R156) and nothing else changes. -/
def Obligations.MbReadRefusesBadRequest : Prop :=
  ∀ (s : State) (w : Word), s.seq = .start w →
    ((s.latch.func ≠ 3#8 ∧ s.latch.func ≠ 4#8) ∨ s.latch.count = 0#16 ∨
      s.params.rxcap < 3 + 2 * s.latch.count.toNat + 2) →
    exec .mbRead s = .next (State.ended { s with regcnt := 0#16, exc := 0#8 } 6#4)

/-- R162, the build step of MB_READ: an admitted request is in TXBUF[0..8), TXLEN is 8, RXLEN 0, and the opening clear
is next; no transaction is issued and nothing else changes (the private CRC apart). -/
def Obligations.MbReadBuildStep : Prop :=
  (∀ (w : Word), w.toNat % 256 = 0x12 → decode w = .ok .mbRead) ∧
  ∀ (s : State) (w : Word), s.seq = .start w → (s.latch.func = 3#8 ∨ s.latch.func = 4#8) → s.latch.count ≠ 0#16 →
    3 + 2 * s.latch.count.toNat + 2 ≤ s.params.rxcap →
    ∃ t c fr, exec .mbRead s = .next t ∧ fr.length = 8 ∧
      fr = mbRequest s.latch.slave s.latch.func s.latch.start s.latch.count ∧
      t = { s with txbuf := t.txbuf, txlen := 8#16, rxlen := 0#16, privCrc := c, seq := .mbRead (.clearIn fr) } ∧
      Holds t.txbuf 0 fr ∧ ∀ k, 8 ≤ k → Memory.read t.txbuf k = Memory.read s.txbuf k

/-- R162, the engine steps of a running MB_READ whose transactions are answered Ok: which transaction each issues, what
it stores, and where the sequencer goes; the last one ends as MB_DECODE does. (The cut of the pseudocode into engine
steps is the model's reading, log 7; a read's answer cut to what was asked for, log 4.) -/
def Obligations.MbReadExchangeSteps : Prop :=
  (∀ (s : State) (a : List Byte) (rest : List Answer), s.answers = .ok a :: rest →
    (∀ fr, s.seq = .mbRead (.clearIn fr) → exec .mbRead s = .next { s with
      port := s.port ++ [.clearIn], answers := rest, seq := .mbRead (.clearOut fr) }) ∧
    (∀ fr, s.seq = .mbRead (.clearOut fr) → exec .mbRead s = .next { s with
      port := s.port ++ [.clearOut], answers := rest, seq := .mbRead (.write fr) }) ∧
    (∀ fr, s.seq = .mbRead (.write fr) → exec .mbRead s = .next { s with
      port := s.port ++ [.write fr], answers := rest, seq := .mbRead .read }) ∧
    (s.seq = .mbRead .read → exec .mbRead s = .next { s with
      port := s.port ++ [.read (3 + 2 * s.latch.count.toNat + 2) .mbTimeout], answers := rest,
      seq := .mbRead (.got (.ok (a.take (3 + 2 * s.latch.count.toNat + 2)))) }) ∧
    (s.seq = .mbRead .closeIn → exec .mbRead s = .next { s with
      port := s.port ++ [.clearIn], answers := rest, seq := .mbRead .finish })) ∧
  (∀ (s : State) (bs : List Byte), s.seq = .mbRead (.got (.ok bs)) → ∃ t, exec .mbRead s = .next t ∧
    t = { s with rxbuf := t.rxbuf, rxlen := BitVec.ofNat 16 bs.length, seq := .mbRead .closeIn } ∧
    Holds t.rxbuf 0 bs ∧ ∀ k, bs.length ≤ k → Memory.read t.rxbuf k = Memory.read s.rxbuf k) ∧
  (∀ (s : State), s.seq = .mbRead .finish → exec .mbRead s = exec .mbDecode s)

/-- R162 as a whole, for an admitted request and every transaction answered Ok: from the command's first engine step,
eight engine steps issue the five transactions of R80 in their order, leave the received bytes (at most 3 + 2*count + 2
of them) in RXBUF, and end with the result, REGCNT, EXC and REGS that `mbDecode` gives for them; what R162 does not list
is unchanged. (The number of engine steps is the model's reading, log 7.) -/
def Obligations.MbReadWholeExchange : Prop :=
  ∀ (s : State) (w : Word) (x1 x2 x3 x5 bs f : List Byte) (rest : List Answer),
    s.engineAlone → s.params.wf = true → s.seq = .start w → decode w = .ok .mbRead →
    (s.latch.func = 3#8 ∨ s.latch.func = 4#8) → s.latch.count ≠ 0#16 →
    3 + 2 * s.latch.count.toNat + 2 ≤ s.params.rxcap →
    s.answers = .ok x1 :: .ok x2 :: .ok x3 :: .ok bs :: .ok x5 :: rest →
    f = bs.take (3 + 2 * s.latch.count.toNat + 2) →
    ∃ t c, runSteps 8 s = .next t ∧
      t = State.ended { s with
        txbuf := t.txbuf, txlen := 8#16, rxbuf := t.rxbuf, rxlen := BitVec.ofNat 16 f.length,
        regs := t.regs, regcnt := t.regcnt, exc := t.exc, privCrc := c, answers := rest,
        port := s.port ++ [.clearIn, .clearOut,
          .write (mbRequest s.latch.slave s.latch.func s.latch.start s.latch.count),
          .read (3 + 2 * s.latch.count.toNat + 2) .mbTimeout, .clearIn] }
        (mbDecode f).resultCode.code ∧
      Holds t.txbuf 0 (mbRequest s.latch.slave s.latch.func s.latch.start s.latch.count) ∧
      (∀ k, 8 ≤ k → Memory.read t.txbuf k = Memory.read s.txbuf k) ∧
      Holds t.rxbuf 0 f ∧ (∀ k, f.length ≤ k → Memory.read t.rxbuf k = Memory.read s.rxbuf k) ∧
      (∀ regs, mbDecode f = .ok regs → t.regcnt.toNat = regs.length ∧ t.exc = 0#8 ∧ Holds t.regs 0 regs ∧
        ∀ k, regs.length ≤ k → Memory.read t.regs k = Memory.read s.regs k) ∧
      (∀ code, mbDecode f = .deviceException code → t.regcnt = 0#16 ∧ t.exc = code ∧ t.regs = s.regs) ∧
      (mbDecode f = .noResponse ∨ mbDecode f = .frameCorrupt ∨ mbDecode f = .frameTooShort →
        t.regcnt = 0#16 ∧ t.exc = 0#8 ∧ t.regs = s.regs)

/-- R79 and R162: a clear, the write or the read of MB_READ that is answered Err ends the command with TransportError
after that one transaction; REGCNT and EXC are 0 and nothing else changes. (That the end is an engine step after the
transaction's is the model's reading, log 7.) -/
def Obligations.MbReadTransportErrorEnds : Prop :=
  ∀ (s : State) (fr : List Byte) (tx : Transaction) (rest : List Answer),
    s.engineAlone → s.answers = .err :: rest →
    ((s.seq = .mbRead (.clearIn fr) ∧ tx = .clearIn) ∨ (s.seq = .mbRead (.clearOut fr) ∧ tx = .clearOut) ∨
      (s.seq = .mbRead (.write fr) ∧ tx = .write fr) ∨
      (s.seq = .mbRead .read ∧ tx = .read (3 + 2 * s.latch.count.toNat + 2) .mbTimeout) ∨
      (s.seq = .mbRead .closeIn ∧ tx = .clearIn)) →
    runSteps 2 s = .next (State.ended { s with
      port := s.port ++ [tx], answers := rest, regcnt := 0#16, exc := 0#8 } 7#4)

/-! ## BMS commands -/

/-- The laws of R209: a body with its checksum appended verifies, and changing exactly one byte of a frame that verifies
makes it fail. -/
def Obligations.ChecksumLaws : Prop :=
  (∀ (b : List Byte), verifySum8 (b ++ [sum8 b]) = true) ∧
  (∀ (f : List Byte) (i : Nat) (x y : Byte), verifySum8 f = true → f[i]? = some x → y ≠ x →
    verifySum8 (f.set i y) = false)

/-- R210 with R202 and R203, BMS_BUILD: its encoding; with a legal command code and a written payload, the header and
the checksum stand around the payload in TXBUF and TXLEN is 8 + PLEN; an illegal code completes with BadRequest;
UninitRead where a payload byte is unwritten. -/
def Obligations.BmsBuildResult : Prop :=
  (∀ (w : Word), w.toNat % 256 = 0x20 → decode w = .ok .bmsBuild) ∧
  (∀ (s : State) (p : List Byte),
    (s.latch.bcmd = 0x00#8 ∨ s.latch.bcmd = 0x27#8 ∨ s.latch.bcmd = 0x2D#8 ∨ s.latch.bcmd = 0x2E#8) →
    p.length = s.latch.plen.toNat → Holds s.txbuf 7 p →
    ∃ t, exec .bmsBuild s = .next t ∧
      t = State.ended { s with txbuf := t.txbuf, txlen := BitVec.ofNat 16 (8 + s.latch.plen.toNat) } 0#4 ∧
      Holds t.txbuf 0 ([0x3D#8, 0x01#8, 0x02#8, s.latch.bcmd, 0x01#8, 0x00#8, s.latch.plen] ++ p ++
        [sum8 ([0x3D#8, 0x01#8, 0x02#8, s.latch.bcmd, 0x01#8, 0x00#8, s.latch.plen] ++ p)]) ∧
      ∀ k, 8 + s.latch.plen.toNat ≤ k → Memory.read t.txbuf k = Memory.read s.txbuf k) ∧
  (∀ (s : State), s.latch.bcmd ∉ [0x00#8, 0x27#8, 0x2D#8, 0x2E#8] → exec .bmsBuild s = .next (s.ended 6#4)) ∧
  (∀ (s : State), s.latch.bcmd ∈ [0x00#8, 0x27#8, 0x2D#8, 0x2E#8] →
    (∃ k, k < s.latch.plen.toNat ∧ Memory.read s.txbuf (7 + k) = none) →
    exec .bmsBuild s = .fault (.uninitRead .txbuf))

/-- R211 with R201, BMS_CHECK: its encoding; no byte is NoResponse; otherwise the last byte is compared with the sum of
the others modulo 256; UninitRead where a byte is unwritten. Only STATUS changes. -/
def Obligations.BmsCheckResult : Prop :=
  (∀ (w : Word), w.toNat % 256 = 0x21 → decode w = .ok .bmsCheck) ∧
  (∀ (s : State), s.rxlen = 0#16 → exec .bmsCheck s = .next (s.ended 1#4)) ∧
  (∀ (s : State) (body : List Byte) (last : Byte), s.rxIs (body ++ [last]) →
    ((body.map BitVec.toNat).sum % 256 = last.toNat → exec .bmsCheck s = .next (s.ended 0#4)) ∧
    ((body.map BitVec.toNat).sum % 256 ≠ last.toNat → exec .bmsCheck s = .next (s.ended 5#4))) ∧
  (∀ (s : State), s.rxHole → exec .bmsCheck s = .fault (.uninitRead .rxbuf))

/-- R212, the first engine step of BMS_XCHG: CHUNKS becomes 0 whatever the request; an illegal code completes with
BadRequest; a legal request with a written payload is in TXBUF[0..8+PLEN), RXLEN is 0, and the opening clear is next;
UninitRead where a payload byte is unwritten. -/
def Obligations.BmsXchgBuildStep : Prop :=
  (∀ (w : Word), w.toNat % 256 = 0x22 → decode w = .ok .bmsXchg) ∧
  (∀ (s : State) (w : Word), s.seq = .start w → s.latch.bcmd ∉ [0x00#8, 0x27#8, 0x2D#8, 0x2E#8] →
    exec .bmsXchg s = .next (State.ended { s with chunks := 0#3 } 6#4)) ∧
  (∀ (s : State) (w : Word) (p : List Byte), s.seq = .start w →
    s.latch.bcmd ∈ [0x00#8, 0x27#8, 0x2D#8, 0x2E#8] → p.length = s.latch.plen.toNat → Holds s.txbuf 7 p →
    ∃ t fr, exec .bmsXchg s = .next t ∧
      fr = [0x3D#8, 0x01#8, 0x02#8, s.latch.bcmd, 0x01#8, 0x00#8, s.latch.plen] ++ p ++
        [sum8 ([0x3D#8, 0x01#8, 0x02#8, s.latch.bcmd, 0x01#8, 0x00#8, s.latch.plen] ++ p)] ∧
      t = { s with
        txbuf := t.txbuf, txlen := BitVec.ofNat 16 (8 + s.latch.plen.toNat), rxlen := 0#16, chunks := 0#3,
        seq := .bmsXchg (.clearIn fr) } ∧
      Holds t.txbuf 0 fr ∧ ∀ k, 8 + s.latch.plen.toNat ≤ k → Memory.read t.txbuf k = Memory.read s.txbuf k) ∧
  (∀ (s : State) (w : Word), s.seq = .start w → s.latch.bcmd ∈ [0x00#8, 0x27#8, 0x2D#8, 0x2E#8] →
    (∃ k, k < s.latch.plen.toNat ∧ Memory.read s.txbuf (7 + k) = none) →
    exec .bmsXchg s = .fault (.uninitRead .txbuf))

/-- R212, the engine steps of a running BMS_XCHG whose transactions are answered Ok: which transaction each issues and
where the sequencer goes; a read asks for min(BMS_CHUNK_MAX, RXCAP - RXLEN) bytes (R205); the last step ends as
BMS_CHECK does. (The cut into engine steps is the model's reading, log 7.) -/
def Obligations.BmsXchgExchangeSteps : Prop :=
  (∀ (s : State) (a : List Byte) (rest : List Answer), s.answers = .ok a :: rest →
    (∀ fr, s.seq = .bmsXchg (.clearIn fr) → exec .bmsXchg s = .next { s with
      port := s.port ++ [.clearIn], answers := rest, seq := .bmsXchg (.clearOut fr) }) ∧
    (∀ fr, s.seq = .bmsXchg (.clearOut fr) → exec .bmsXchg s = .next { s with
      port := s.port ++ [.clearOut], answers := rest, seq := .bmsXchg (.write fr) }) ∧
    (∀ fr, s.seq = .bmsXchg (.write fr) → exec .bmsXchg s = .next { s with
      port := s.port ++ [.write fr], answers := rest, seq := .bmsXchg .settle }) ∧
    (∀ ix n, n = min s.params.chunkMax (s.params.rxcap - s.rxlen.toNat) → s.seq = .bmsXchg (.read ix) →
      exec .bmsXchg s = .next { s with
        port := s.port ++ [.read n .bmsRdTimeout], answers := rest, seq := .bmsXchg (.got ix (.ok (a.take n))) }) ∧
    (s.seq = .bmsXchg .closeIn → exec .bmsXchg s = .next { s with
      port := s.port ++ [.clearIn], answers := rest, seq := .bmsXchg .finish })) ∧
  (∀ (s : State), s.seq = .bmsXchg .settle → exec .bmsXchg s = .next { s with
    port := s.port ++ [.wait .bmsSettle], seq := .bmsXchg (.read .first) }) ∧
  (∀ (s : State) (ix : ReadIx), s.seq = .bmsXchg (.drainWait ix) → exec .bmsXchg s = .next { s with
    port := s.port ++ [.wait .bmsDrain], seq := .bmsXchg (.read ix) }) ∧
  (∀ (s : State), s.seq = .bmsXchg .finish → exec .bmsXchg s = exec .bmsCheck s)

/-- R204 and R205, the step after a read: CHUNKS counts it; a drain read that yielded nothing stops the schedule; else
the bytes are appended to RXBUF, and the next drain read follows if fewer than three were made and RXBUF has room. -/
def Obligations.BmsReceiveSchedule : Prop :=
  ∀ (s : State) (ix : ReadIx) (bs : List Byte), s.seq = .bmsXchg (.got ix (.ok bs)) →
    s.rxlen.toNat + bs.length ≤ s.params.rxcap → s.params.wf = true →
    (ix ≠ .first → bs = [] →
      exec .bmsXchg s = .next { s with chunks := s.chunks + 1#3, seq := .bmsXchg .closeIn }) ∧
    (ix = .first ∨ bs ≠ [] → ∃ t, exec .bmsXchg s = .next t ∧
      t = { s with
        chunks := s.chunks + 1#3, rxbuf := t.rxbuf, rxlen := BitVec.ofNat 16 (s.rxlen.toNat + bs.length)
        seq := t.seq } ∧
      Holds t.rxbuf s.rxlen.toNat bs ∧
      (∀ k, (k < s.rxlen.toNat ∨ s.rxlen.toNat + bs.length ≤ k) → Memory.read t.rxbuf k = Memory.read s.rxbuf k) ∧
      (s.rxlen.toNat + bs.length = s.params.rxcap → t.seq = .bmsXchg .closeIn) ∧
      (s.rxlen.toNat + bs.length < s.params.rxcap →
        (ix = .first → t.seq = .bmsXchg (.drainWait .d1)) ∧ (ix = .d1 → t.seq = .bmsXchg (.drainWait .d2)) ∧
        (ix = .d2 → t.seq = .bmsXchg (.drainWait .d3)) ∧ (ix = .d3 → t.seq = .bmsXchg .closeIn)))

/-- R204 as a whole, for a legal request with a written payload and every transaction answered Ok: a first read and up to
three non-empty drain reads, then an empty one where fewer than three came, of at most BMS_CHUNK_MAX bytes each and
fewer than RXCAP in all, end in at most 18 engine steps (the model's reading, log 7) with the concatenation of all
chunks in RXBUF, the number of reads in CHUNKS, and the result of R206 for the concatenation, however the bytes were
split. The transactions issued are, in this order (R80): the two clears, the write of the request, the settle delay, the
first read, a drain delay and a read for each drain read, each read asking for what R205 says after the bytes received
so far, and the closing clear. -/
def Obligations.BmsXchgReassemblesChunks : Prop :=
  ∀ (s : State) (w : Word) (p x1 x2 x3 x5 c0 f : List Byte) (cs : List (List Byte)) (rest : List Answer),
    s.engineAlone → s.params.wf = true → s.seq = .start w → decode w = .ok .bmsXchg →
    s.latch.bcmd ∈ [0x00#8, 0x27#8, 0x2D#8, 0x2E#8] → p.length = s.latch.plen.toNat → Holds s.txbuf 7 p →
    cs.length ≤ 3 → (∀ c ∈ cs, c ≠ []) → (∀ c ∈ c0 :: cs, c.length ≤ s.params.chunkMax) →
    f = c0 ++ cs.flatten → f.length < s.params.rxcap →
    s.answers = .ok x1 :: .ok x2 :: .ok x3 :: .ok c0 :: (cs.map Answer.ok ++
      (if cs.length < 3 then [.ok []] else []) ++ .ok x5 :: rest) →
    ∃ n t, n ≤ 18 ∧ runSteps n s = .next t ∧
      t = State.ended { s with
        txbuf := t.txbuf, txlen := BitVec.ofNat 16 (8 + s.latch.plen.toNat), rxbuf := t.rxbuf,
        rxlen := BitVec.ofNat 16 f.length, chunks := BitVec.ofNat 3 (min 4 (cs.length + 2)),
        answers := rest, port := t.port }
        (if f = [] then 1#4 else if verifySum8 f = true then 0#4 else 5#4) ∧
      Holds t.txbuf 0 (bmsRequest s.latch.bcmd p) ∧
      (∀ k, 8 + s.latch.plen.toNat ≤ k → Memory.read t.txbuf k = Memory.read s.txbuf k) ∧
      Holds t.rxbuf 0 f ∧ (∀ k, f.length ≤ k → Memory.read t.rxbuf k = Memory.read s.rxbuf k) ∧
      t.port = s.port ++ [.clearIn, .clearOut, .write (bmsRequest s.latch.bcmd p), .wait .bmsSettle,
        .read (min s.params.chunkMax s.params.rxcap) .bmsRdTimeout] ++
        (List.range (min 3 (cs.length + 1))).flatMap (fun j => [.wait .bmsDrain,
          .read (min s.params.chunkMax (s.params.rxcap - ((c0 :: cs).take (j + 1)).flatten.length)) .bmsRdTimeout]) ++
        [.clearIn]

/-- R79 and R212: a transaction of BMS_XCHG that is answered Err ends the command with TransportError after that one
transaction; a failed read is counted in CHUNKS; nothing else changes. (The two engine steps are the model's reading,
log 7.) -/
def Obligations.BmsXchgTransportErrorEnds : Prop :=
  ∀ (s : State) (fr : List Byte) (ix : ReadIx) (tx : Transaction) (rest : List Answer),
    s.engineAlone → s.answers = .err :: rest →
    ((s.seq = .bmsXchg (.clearIn fr) ∧ tx = .clearIn) ∨ (s.seq = .bmsXchg (.clearOut fr) ∧ tx = .clearOut) ∨
        (s.seq = .bmsXchg (.write fr) ∧ tx = .write fr) ∨ (s.seq = .bmsXchg .closeIn ∧ tx = .clearIn) →
      runSteps 2 s = .next (State.ended { s with port := s.port ++ [tx], answers := rest } 7#4)) ∧
    (s.seq = .bmsXchg (.read ix) → runSteps 2 s = .next (State.ended { s with
      port := s.port ++ [.read (min s.params.chunkMax (s.params.rxcap - s.rxlen.toNat)) .bmsRdTimeout]
      answers := rest, chunks := s.chunks + 1#3 } 7#4))

/-! ## Control, and rules of the whole machine -/

/-- R251, CLR_STATUS: its encoding; STATUS becomes 0 and nothing else changes. -/
def Obligations.ClrStatusResult : Prop :=
  (∀ (w : Word), w.toNat % 256 = 0xF0 → decode w = .ok .clrStatus) ∧
  (∀ (s : State), exec .clrStatus s = .next { s with
    ovr := false, crcOk := false, result := 0#4, done := false, busy := false, seq := .idle }) ∧
  (∀ (s t : State), exec .clrStatus s = .next t → t.statusWord = 0#32)

/-- R254: with the engine alone, a machine that meets the invariant and runs a command either faults at once with
UninitRead, at the command's first engine step, or is IDLE after at most 18 engine steps (the model's reading, log 7),
having issued at most 12 transactions, and at most 5 in MB_READ; a command that is no exchange takes one step and issues
none. -/
def Obligations.EveryCommandCompletes : Prop :=
  ∀ (s : State), s.Inv → s.engineAlone → s.seq ≠ .idle →
    (∃ w a, s.seq = .start w ∧ step s = .fault (.uninitRead a)) ∨
    ∃ n t l, n ≤ 18 ∧ runSteps n s = .next t ∧ t.seq = .idle ∧ t.busy = false ∧ t.port = s.port ++ l ∧
      l.length ≤ 12 ∧ (s.fetch = some (.ok .mbRead) → l.length ≤ 5) ∧
      (s.fetch ≠ some (.ok .mbRead) → s.fetch ≠ some (.ok .bmsXchg) → n ≤ 1 ∧ l = [])

/-- Who may change what, reset apart. The parameters: nobody (R35). CRC: the CRC commands and a host write (R26). EXC,
REGCNT and REGS: MB_DECODE and MB_READ (R27, R33, R40). CHUNKS: BMS_XCHG (R34). CRC_OK: CRC_CHK and CLR_STATUS (R25,
R43). OVR rises by a host write that the busy gate drops and falls by CLR_STATUS (R250, R251). RESULT: the engine step
that ends a command (R272). DONE rises in that step, CLR_STATUS apart, and falls by a command start or CLR_STATUS
(R253, R254, R276). BUSY rises by a command start and falls in the step that ends a command; the latches change at a
command start (R42, R253). TXBUF and TXLEN: the first engine step of the build and exchange commands, and a host write
(R31, R38). RXBUF and RXLEN: the exchange commands and a host write (R32, R39). The configuration fields: a host write
(R28 to R30). The private CRC: the Modbus commands (R43). Transactions are issued and answered only by an engine step of
an exchange command, one at a time (R75). Only a host read, of POLL or its own, returns a word. -/
def Obligations.OnlyTheirOwnersChangeOutputs : Prop :=
  ∀ (s t : State), step s = .next t → s.nextTurn ≠ .rst true →
    t.params = s.params ∧
    (t.crc ≠ s.crc →
      s.hostWrites 2 ∨ s.runs .crcInit ∨ (∃ b, s.runs (.crcByte b)) ∨ s.runs .crcTx ∨ s.runs .crcChk) ∧
    (t.exc ≠ s.exc ∨ t.regcnt ≠ s.regcnt ∨ t.regs ≠ s.regs → s.runs .mbDecode ∨ s.runs .mbRead) ∧
    (t.chunks ≠ s.chunks → s.runs .bmsXchg) ∧
    (t.crcOk ≠ s.crcOk → s.runs .crcChk ∨ s.runs .clrStatus) ∧
    (s.ovr = true → t.ovr = false → s.runs .clrStatus) ∧
    (s.ovr = false → t.ovr = true → s.rst = false ∧ s.busy = true ∧
      ∃ o v, o < 0x4000 ∧ s.nextTurn = .write .word (s.params.pbBase + o) v ∧ writeGated s.params.rxcap o = true) ∧
    (t.result ≠ s.result → s.rst = false ∧ s.nextTurn = .engine ∧ s.seq ≠ .idle ∧ t.seq = .idle) ∧
    (s.done = false → t.done = true →
      s.rst = false ∧ s.nextTurn = .engine ∧ s.seq ≠ .idle ∧ t.seq = .idle ∧ ¬ s.runs .clrStatus) ∧
    (s.done = true → t.done = false → s.hostWrites 0 ∨ s.runs .clrStatus) ∧
    (s.busy = false → t.busy = true → s.hostWrites 0) ∧
    (s.busy = true → t.busy = false → s.rst = false ∧ s.nextTurn = .engine ∧ s.seq ≠ .idle ∧ t.seq = .idle) ∧
    (t.latch ≠ s.latch → s.hostWrites 0) ∧
    (t.txbuf ≠ s.txbuf → (∃ i, i < 512 ∧ s.hostWrites (0x100 + i)) ∨ (∃ w, s.seq = .start w) ∧
      (s.runs .mbBuild ∨ s.runs .mbRead ∨ s.runs .bmsBuild ∨ s.runs .bmsXchg)) ∧
    (t.txlen ≠ s.txlen → s.hostWrites 7 ∨ (∃ w, s.seq = .start w) ∧
      (s.runs .mbBuild ∨ s.runs .mbRead ∨ s.runs .bmsBuild ∨ s.runs .bmsXchg)) ∧
    (t.rxbuf ≠ s.rxbuf →
      (∃ i, i < s.params.rxcap ∧ s.hostWrites (0x400 + i)) ∨ s.runs .mbRead ∨ s.runs .bmsXchg) ∧
    (t.rxlen ≠ s.rxlen → s.hostWrites 8 ∨ s.runs .mbRead ∨ s.runs .bmsXchg) ∧
    (t.slave ≠ s.slave ∨ t.func ≠ s.func → s.hostWrites 4) ∧
    (t.start ≠ s.start ∨ t.count ≠ s.count → s.hostWrites 5) ∧
    (t.bcmd ≠ s.bcmd ∨ t.plen ≠ s.plen → s.hostWrites 6) ∧
    (t.privCrc ≠ s.privCrc → s.runs .mbBuild ∨ s.runs .mbDecode ∨ s.runs .mbRead) ∧
    (t.port ≠ s.port ∨ t.answers ≠ s.answers ∨ t.draws ≠ s.draws →
      (s.runs .mbRead ∨ s.runs .bmsXchg) ∧ ∃ tx, t.port = s.port ++ [tx]) ∧
    (t.rdata ≠ s.rdata → s.nextTurn = .poll ∨ ∃ a, s.nextTurn = .read .word a)

/-- R37: no command chooses its behaviour by a flag. From a state with other values `b`, `d`, `c`, `o` and `r` of BUSY,
DONE, CRC_OK, OVR and RESULT a command's step has the same outcome, the same fault, and the same next state: BUSY, DONE
and RESULT agree where the step ends the command, CRC_OK where CRC_CHK or CLR_STATUS writes it, OVR where CLR_STATUS
does, and each of them that the step does not write keeps the value it had. -/
def Obligations.FlagsDoNotSteerCommands : Prop :=
  ∀ (i : Instr) (s : State) (b d c o : Bool) (r : BitVec 4),
    (∀ t, exec i s = .next t →
      exec i { s with busy := b, done := d, crcOk := c, ovr := o, result := r } = .next { t with
        busy := if t.seq = .idle then t.busy else b
        done := if t.seq = .idle then t.done else d
        crcOk := if i = .crcChk ∨ i = .clrStatus then t.crcOk else c
        ovr := if i = .clrStatus then t.ovr else o
        result := if t.seq = .idle then t.result else r }) ∧
    (∀ t, exec i s = .next t →
      (t.seq ≠ .idle → t.busy = s.busy ∧ t.done = s.done ∧ t.result = s.result) ∧
      (i ≠ .crcChk → i ≠ .clrStatus → t.crcOk = s.crcOk) ∧ (i ≠ .clrStatus → t.ovr = s.ovr)) ∧
    (∀ e, exec i s = .fault e →
      exec i { s with busy := b, done := d, crcOk := c, ovr := o, result := r } = .fault e) ∧
    (∀ e, exec i s ≠ .refused e)

/-- R78: whatever the transport has to answer, listed or drawn, a read hands on at most as many bytes as it asked for,
and the transaction is the only one the step issues. -/
def Obligations.ReadAnswersAreBounded : Prop :=
  ∀ (s t : State) (bs : List Byte),
    (s.seq = .mbRead .read → exec .mbRead s = .next t → t.seq = .mbRead (.got (.ok bs)) →
      bs.length ≤ 3 + 2 * s.latch.count.toNat + 2 ∧
        t.port = s.port ++ [.read (3 + 2 * s.latch.count.toNat + 2) .mbTimeout]) ∧
    (∀ ix, s.seq = .bmsXchg (.read ix) → exec .bmsXchg s = .next t → t.seq = .bmsXchg (.got ix (.ok bs)) →
      ∃ n, n ≤ s.params.chunkMax ∧ s.rxlen.toNat + n ≤ max s.rxlen.toNat s.params.rxcap ∧ bs.length ≤ n ∧
        t.port = s.port ++ [.read n .bmsRdTimeout])

/-- The three arrays as the rules use them (R7), TXBUF and RXBUF at width 8 and REGS at width 16: after a range is
written each of its entries reads as written and every other entry as before, and the canonical form is kept; in
canonical form equal entries are equal arrays. -/
def Obligations.ArrayRangeWriteThenRead : Prop :=
  (∀ (width : Nat) (m : Memory width) (base : Nat) (vs : List (BitVec width)),
    Holds (Memory.writeRange m base vs) base vs ∧
    (∀ k, (k < base ∨ base + vs.length ≤ k) → Memory.read (Memory.writeRange m base vs) k = Memory.read m k) ∧
    (∀ size, base + vs.length ≤ size → Memory.wf size m = true →
      Memory.wf size (Memory.writeRange m base vs) = true)) ∧
  (∀ (width size : Nat) (m m' : Memory width), Memory.wf size m = true → Memory.wf size m' = true →
    (∀ i, Memory.read m i = Memory.read m' i) → m = m')

/-- LOADRX of R100 with at most RXCAP bytes: from a machine with BUSY = 0 and `rst` released, the turns the
pseudo-statement expands to leave exactly the listed bytes in RXBUF[0..n) and n in RXLEN, and change nothing else. -/
def Obligations.LoadRxLoadsBytes : Prop :=
  ∀ (s : State) (bs : List Byte) (rest : List Turn), s.params.wf = true → s.rst = false → s.busy = false →
    bs.length ≤ s.params.rxcap → s.agenda = Stmt.turns s.params.pbBase (.loadrx bs) ++ rest →
    ∃ t, runSteps (bs.length + 1) s = .next t ∧
      t = { s with agenda := rest, rxbuf := t.rxbuf, rxlen := BitVec.ofNat 16 bs.length } ∧
      t.rxIs bs ∧ ∀ k, bs.length ≤ k → Memory.read t.rxbuf k = Memory.read s.rxbuf k
end

