-- ==== Sys2Proof/Laws/Memory.lean ====
section
/-!
SUPPORT. The laws of the data arrays: read after write, ranges, and that every operation keeps the canonical form.
-/
namespace Sys2Proof.Machine

variable {w : Nat}

@[simp] theorem Memory.read_nil (i : Nat) : Memory.read ([] : Memory w) i = none := rfl

/-- An entry just written reads back. -/
@[simp] theorem Memory.read_write_same (m : Memory w) (i : Nat) (v : BitVec w) :
    Memory.read (Memory.write m i v) i = some v := by
  induction m with
  | nil => simp [Memory.write, Memory.read]
  | cons c rest ih =>
    obtain ⟨j, u⟩ := c
    simp only [Memory.write]
    split
    · simp [Memory.read]
    · split
      · simp [Memory.read]
      · rename_i h
        have hji : j ≠ i := fun e => h e.symm
        simp [Memory.read, hji, ih]

/-- A write leaves every other entry alone. -/
theorem Memory.read_write_ne (m : Memory w) {i k : Nat} (v : BitVec w) (h : i ≠ k) :
    Memory.read (Memory.write m i v) k = Memory.read m k := by
  induction m with
  | nil => simp [Memory.write, Memory.read, h]
  | cons c rest ih =>
    obtain ⟨j, u⟩ := c
    simp only [Memory.write]
    split
    · simp [Memory.read, h]
    · split
      · subst_vars
        simp [Memory.read, h]
      · simp only [Memory.read, ih]

/-- What an entry reads as after one write. -/
theorem Memory.read_write (m : Memory w) (i k : Nat) (v : BitVec w) :
    Memory.read (Memory.write m i v) k = if k = i then some v else Memory.read m k := by
  by_cases h : k = i
  · subst h; simp
  · simp [h, Memory.read_write_ne m v (Ne.symm h)]

/-- What an entry reads as after a range is written. -/
theorem Memory.read_writeRange (vs : List (BitVec w)) :
    ∀ (m : Memory w) (base k : Nat),
      Memory.read (Memory.writeRange m base vs) k =
        if base ≤ k ∧ k < base + vs.length then vs[k - base]? else Memory.read m k := by
  induction vs with
  | nil => intro m base k; simp [Memory.writeRange]
  | cons v vs ih =>
    intro m base k
    simp only [Memory.writeRange, ih, Memory.read_write, List.length_cons]
    by_cases hk : k = base
    · subst hk; simp
    · by_cases hlt : k < base
      · have h1 : ¬ (base + 1 ≤ k) := by omega
        have h2 : ¬ (base ≤ k) := by omega
        simp [h1, h2, hk]
      · by_cases hin : k < base + 1 + vs.length
        · have h1 : base + 1 ≤ k := by omega
          have h2 : base ≤ k ∧ k < base + (vs.length + 1) := by omega
          have h3 : k - base = (k - (base + 1)) + 1 := by omega
          simp [h1, hin, h2, h3]
        · have h2 : ¬ (k < base + (vs.length + 1)) := by omega
          simp [hin, h2, hk]

/-- A range inside what was just written reads back what was written. -/
theorem Memory.readRange_eq_some (n : Nat) :
    ∀ (m : Memory w) (base : Nat) (vs : List (BitVec w)),
      Memory.readRange m base n = some vs ↔
        vs.length = n ∧ ∀ k, k < n → Memory.read m (base + k) = vs[k]? := by
  induction n with
  | zero =>
    intro m base vs
    simp [Memory.readRange, eq_comm]
  | succ n ih =>
    intro m base vs
    simp only [Memory.readRange]
    constructor
    · intro h
      split at h
      · cases h
      · rename_i v hv
        split at h
        · cases h
        · rename_i us hus
          cases h
          obtain ⟨hl, hr⟩ := (ih m (base + 1) us).1 hus
          refine ⟨by simp [hl], ?_⟩
          intro k hk
          cases k with
          | zero => simpa using hv
          | succ k =>
            have := hr k (by omega)
            simp only [List.getElem?_cons_succ]
            rw [← this]
            congr 1
            omega
    · rintro ⟨hl, hr⟩
      match vs, hl with
      | v :: us, hl =>
        have h0 := hr 0 (by omega)
        simp only [Nat.add_zero, List.getElem?_cons_zero] at h0
        have hus : Memory.readRange m (base + 1) n = some us := by
          refine (ih m (base + 1) us).2 ⟨by simpa using hl, ?_⟩
          intro k hk
          have := hr (k + 1) (by omega)
          simp only [List.getElem?_cons_succ] at this
          rw [← this]
          congr 1
          omega
        simp [h0, hus]

/-- A range read has as many entries as were asked for. -/
theorem Memory.readRange_length {m : Memory w} {base n : Nat} {vs : List (BitVec w)}
    (h : Memory.readRange m base n = some vs) : vs.length = n :=
  ((Memory.readRange_eq_some n m base vs).1 h).1

/-- A range is unreadable exactly when one of its entries is unwritten. -/
theorem Memory.readRange_eq_none (n : Nat) :
    ∀ (m : Memory w) (base : Nat),
      Memory.readRange m base n = none ↔ ∃ k, k < n ∧ Memory.read m (base + k) = none := by
  induction n with
  | zero => intro m base; simp [Memory.readRange]
  | succ n ih =>
    intro m base
    simp only [Memory.readRange]
    cases hv : Memory.read m base with
    | none => simp only [true_iff]; exact ⟨0, by omega, by simpa using hv⟩
    | some v =>
      cases hus : Memory.readRange m (base + 1) n with
      | none =>
        obtain ⟨k, hk, hr⟩ := (ih m (base + 1)).1 hus
        simp only [true_iff]
        exact ⟨k + 1, by omega, by rw [← hr]; congr 1; omega⟩
      | some us =>
        simp only [reduceCtorEq, false_iff]
        rintro ⟨k, hk, hr⟩
        cases k with
        | zero => simp [hv] at hr
        | succ k =>
          have : Memory.readRange m (base + 1) n = none :=
            (ih m (base + 1)).2 ⟨k, by omega, by rw [← hr]; congr 1; omega⟩
          simp [this] at hus

/-- Equal entries in a range make equal ranges. -/
theorem Memory.readRange_congr {m m' : Memory w} {base n : Nat}
    (h : ∀ k, k < n → Memory.read m (base + k) = Memory.read m' (base + k)) :
    Memory.readRange m base n = Memory.readRange m' base n := by
  cases hm : Memory.readRange m' base n with
  | none =>
    obtain ⟨k, hk, hr⟩ := (Memory.readRange_eq_none n m' base).1 hm
    exact (Memory.readRange_eq_none n m base).2 ⟨k, hk, by rw [h k hk]; exact hr⟩
  | some vs =>
    obtain ⟨hl, hr⟩ := (Memory.readRange_eq_some n m' base vs).1 hm
    exact (Memory.readRange_eq_some n m base vs).2 ⟨hl, fun k hk => by rw [h k hk]; exact hr k hk⟩

/-- Two adjacent ranges are one range. -/
theorem Memory.readRange_append {m : Memory w} {base a b : Nat} {us vs : List (BitVec w)}
    (hu : Memory.readRange m base a = some us) (hv : Memory.readRange m (base + a) b = some vs) :
    Memory.readRange m base (a + b) = some (us ++ vs) := by
  obtain ⟨hul, hur⟩ := (Memory.readRange_eq_some a m base us).1 hu
  obtain ⟨hvl, hvr⟩ := (Memory.readRange_eq_some b m (base + a) vs).1 hv
  refine (Memory.readRange_eq_some (a + b) m base (us ++ vs)).2 ⟨by simp [hul, hvl], ?_⟩
  intro k hk
  by_cases hka : k < a
  · rw [List.getElem?_append_left (by omega)]; exact hur k hka
  · rw [List.getElem?_append_right (by omega), hul]
    have := hvr (k - a) (by omega)
    rw [← this]
    congr 1
    omega

/-- What was just written reads back as one range. -/
theorem Memory.readRange_writeRange_same (m : Memory w) (base : Nat) (vs : List (BitVec w)) :
    Memory.readRange (Memory.writeRange m base vs) base vs.length = some vs := by
  refine (Memory.readRange_eq_some _ _ _ _).2 ⟨rfl, ?_⟩
  intro k hk
  rw [Memory.read_writeRange]
  have : base ≤ base + k ∧ base + k < base + vs.length := by omega
  simp [this]

/-- A range apart from what was written reads as before. -/
theorem Memory.readRange_writeRange_before (m : Memory w) {base n at' : Nat} (vs : List (BitVec w))
    (h : base + n ≤ at') : Memory.readRange (Memory.writeRange m at' vs) base n = Memory.readRange m base n := by
  refine Memory.readRange_congr ?_
  intro k hk
  rw [Memory.read_writeRange]
  have : ¬ (at' ≤ base + k) := by omega
  simp [this]

/-- A canonical array stays canonical from a lower bound. -/
theorem Memory.wfFrom_mono {size lo lo' : Nat} {m : Memory w} (h : lo' ≤ lo)
    (hm : Memory.wfFrom size lo m = true) : Memory.wfFrom size lo' m = true := by
  cases m with
  | nil => rfl
  | cons c rest =>
    obtain ⟨j, u⟩ := c
    simp only [Memory.wfFrom, Bool.and_eq_true, decide_eq_true_eq] at hm ⊢
    exact ⟨⟨by omega, hm.1.2⟩, hm.2⟩

theorem Memory.wfFrom_write {size i : Nat} (v : BitVec w) (hi : i < size) :
    ∀ (m : Memory w) (lo : Nat), lo ≤ i → Memory.wfFrom size lo m = true →
      Memory.wfFrom size lo (Memory.write m i v) = true := by
  intro m
  induction m with
  | nil => intro lo hlo _; simp [Memory.write, Memory.wfFrom, hlo, hi]
  | cons c rest ih =>
    obtain ⟨j, u⟩ := c
    intro lo hlo hm
    simp only [Memory.wfFrom, Bool.and_eq_true, decide_eq_true_eq] at hm
    simp only [Memory.write]
    split
    · rename_i hij
      simp only [Memory.wfFrom, Bool.and_eq_true, decide_eq_true_eq]
      exact ⟨⟨hlo, hi⟩, ⟨by omega, hm.1.2⟩, hm.2⟩
    · split
      · subst_vars
        simp only [Memory.wfFrom, Bool.and_eq_true, decide_eq_true_eq]
        exact ⟨⟨hlo, hi⟩, hm.2⟩
      · simp only [Memory.wfFrom, Bool.and_eq_true, decide_eq_true_eq]
        exact ⟨hm.1, ih (j + 1) (by omega) hm.2⟩

/-- A write inside the array keeps the canonical form. -/
theorem Memory.wf_write {size i : Nat} {m : Memory w} (v : BitVec w) (hi : i < size)
    (hm : Memory.wf size m = true) : Memory.wf size (Memory.write m i v) = true :=
  Memory.wfFrom_write v hi m 0 (Nat.zero_le _) hm

/-- Writing a range inside the array keeps the canonical form. -/
theorem Memory.wf_writeRange {size : Nat} (vs : List (BitVec w)) :
    ∀ (m : Memory w) (base : Nat), base + vs.length ≤ size → Memory.wf size m = true →
      Memory.wf size (Memory.writeRange m base vs) = true := by
  induction vs with
  | nil => intro m base _ hm; exact hm
  | cons v vs ih =>
    intro m base h hm
    simp only [List.length_cons] at h
    exact ih _ _ (by omega) (Memory.wf_write v (by omega) hm)

/-- An index outside a canonical array is unwritten. -/
theorem Memory.read_of_wfFrom_size {size lo i : Nat} {m : Memory w} (hm : Memory.wfFrom size lo m = true)
    (hi : size ≤ i) : Memory.read m i = none := by
  induction m generalizing lo with
  | nil => rfl
  | cons c rest ih =>
    obtain ⟨j, u⟩ := c
    simp only [Memory.wfFrom, Bool.and_eq_true, decide_eq_true_eq] at hm
    have hji : j ≠ i := by omega
    simp only [Memory.read, hji, if_false]
    exact ih hm.2

theorem Memory.read_of_wf_size {size i : Nat} {m : Memory w} (hm : Memory.wf size m = true) (hi : size ≤ i) :
    Memory.read m i = none := Memory.read_of_wfFrom_size hm hi

theorem Memory.read_of_wfFrom_lt {size lo i : Nat} {m : Memory w} (hm : Memory.wfFrom size lo m = true)
    (hi : i < lo) : Memory.read m i = none := by
  induction m generalizing lo with
  | nil => rfl
  | cons c rest ih =>
    obtain ⟨j, u⟩ := c
    simp only [Memory.wfFrom, Bool.and_eq_true, decide_eq_true_eq] at hm
    have hji : j ≠ i := by omega
    simp only [Memory.read, hji, if_false]
    exact ih hm.2 (by omega)

theorem Memory.ext_of_wfFrom {size : Nat} :
    ∀ (m m' : Memory w) (lo : Nat), Memory.wfFrom size lo m = true → Memory.wfFrom size lo m' = true →
      (∀ i, Memory.read m i = Memory.read m' i) → m = m' := by
  intro m
  induction m with
  | nil =>
    intro m' lo _ _ h
    cases m' with
    | nil => rfl
    | cons c rest => obtain ⟨j, u⟩ := c; have := h j; simp [Memory.read] at this
  | cons c rest ih =>
    intro m' lo hm hm' h
    obtain ⟨j, u⟩ := c
    cases m' with
    | nil => have := h j; simp [Memory.read] at this
    | cons c' rest' =>
      obtain ⟨j', u'⟩ := c'
      simp only [Memory.wfFrom, Bool.and_eq_true, decide_eq_true_eq] at hm hm'
      have hj : j = j' := by
        rcases Nat.lt_trichotomy j j' with hlt | heq | hgt
        · have h1 := h j
          have hne : j' ≠ j := by omega
          simp only [Memory.read, if_true, hne, if_false,
            Memory.read_of_wfFrom_lt hm'.2 (show j < j' + 1 by omega)] at h1
          cases h1
        · exact heq
        · have h1 := h j'
          have hne : j ≠ j' := by omega
          simp only [Memory.read, if_true, hne, if_false,
            Memory.read_of_wfFrom_lt hm.2 (show j' < j + 1 by omega)] at h1
          cases h1
      subst hj
      have hu : u = u' := by have := h j; simpa [Memory.read] using this
      subst hu
      congr 1
      refine ih rest' (j + 1) hm.2 hm'.2 ?_
      intro i
      by_cases hi : i < j + 1
      · rw [Memory.read_of_wfFrom_lt hm.2 hi, Memory.read_of_wfFrom_lt hm'.2 hi]
      · have hne : j ≠ i := by omega
        have := h i
        simpa [Memory.read, hne] using this

/-- In canonical form, arrays with equal entries are equal lists. -/
theorem Memory.ext_of_wf {size : Nat} {m m' : Memory w} (hm : Memory.wf size m = true)
    (hm' : Memory.wf size m' = true) (h : ∀ i, Memory.read m i = Memory.read m' i) : m = m' :=
  Memory.ext_of_wfFrom m m' 0 hm hm' h

end Sys2Proof.Machine
end

