-- ==== Sys2Proof/Laws/State.lean ====
section
/-!
SUPPORT. One lemma per field per update of State, true by rfl, so that no proof unfolds a record update.
-/
namespace Sys2Proof.Machine

variable (s : State)

/-! ### goto -/

@[simp] theorem State.goto_params (q : Seq) : (s.goto q).params = s.params := rfl
@[simp] theorem State.goto_seq (q : Seq) : (s.goto q).seq = q := rfl
@[simp] theorem State.goto_latch (q : Seq) : (s.goto q).latch = s.latch := rfl
@[simp] theorem State.goto_privCrc (q : Seq) : (s.goto q).privCrc = s.privCrc := rfl
@[simp] theorem State.goto_busy (q : Seq) : (s.goto q).busy = s.busy := rfl
@[simp] theorem State.goto_done (q : Seq) : (s.goto q).done = s.done := rfl
@[simp] theorem State.goto_crcOk (q : Seq) : (s.goto q).crcOk = s.crcOk := rfl
@[simp] theorem State.goto_ovr (q : Seq) : (s.goto q).ovr = s.ovr := rfl
@[simp] theorem State.goto_result (q : Seq) : (s.goto q).result = s.result := rfl
@[simp] theorem State.goto_crc (q : Seq) : (s.goto q).crc = s.crc := rfl
@[simp] theorem State.goto_exc (q : Seq) : (s.goto q).exc = s.exc := rfl
@[simp] theorem State.goto_slave (q : Seq) : (s.goto q).slave = s.slave := rfl
@[simp] theorem State.goto_func (q : Seq) : (s.goto q).func = s.func := rfl
@[simp] theorem State.goto_start (q : Seq) : (s.goto q).start = s.start := rfl
@[simp] theorem State.goto_count (q : Seq) : (s.goto q).count = s.count := rfl
@[simp] theorem State.goto_bcmd (q : Seq) : (s.goto q).bcmd = s.bcmd := rfl
@[simp] theorem State.goto_plen (q : Seq) : (s.goto q).plen = s.plen := rfl
@[simp] theorem State.goto_txlen (q : Seq) : (s.goto q).txlen = s.txlen := rfl
@[simp] theorem State.goto_rxlen (q : Seq) : (s.goto q).rxlen = s.rxlen := rfl
@[simp] theorem State.goto_regcnt (q : Seq) : (s.goto q).regcnt = s.regcnt := rfl
@[simp] theorem State.goto_chunks (q : Seq) : (s.goto q).chunks = s.chunks := rfl
@[simp] theorem State.goto_txbuf (q : Seq) : (s.goto q).txbuf = s.txbuf := rfl
@[simp] theorem State.goto_rxbuf (q : Seq) : (s.goto q).rxbuf = s.rxbuf := rfl
@[simp] theorem State.goto_regs (q : Seq) : (s.goto q).regs = s.regs := rfl
@[simp] theorem State.goto_rst (q : Seq) : (s.goto q).rst = s.rst := rfl
@[simp] theorem State.goto_agenda (q : Seq) : (s.goto q).agenda = s.agenda := rfl
@[simp] theorem State.goto_answers (q : Seq) : (s.goto q).answers = s.answers := rfl
@[simp] theorem State.goto_draws (q : Seq) : (s.goto q).draws = s.draws := rfl
@[simp] theorem State.goto_port (q : Seq) : (s.goto q).port = s.port := rfl
@[simp] theorem State.goto_rdata (q : Seq) : (s.goto q).rdata = s.rdata := rfl

/-! ### issue -/

@[simp] theorem State.issue_params (v : Word) : (s.issue v).params = s.params := rfl
@[simp] theorem State.issue_seq (v : Word) : (s.issue v).seq = .start v := rfl
@[simp] theorem State.issue_latch (v : Word) : (s.issue v).latch =
    if latchesOperands (opField v) = true then s.latchNow else s.latch := rfl
@[simp] theorem State.issue_privCrc (v : Word) : (s.issue v).privCrc = s.privCrc := rfl
@[simp] theorem State.issue_busy (v : Word) : (s.issue v).busy = true := rfl
@[simp] theorem State.issue_done (v : Word) : (s.issue v).done = false := rfl
@[simp] theorem State.issue_crcOk (v : Word) : (s.issue v).crcOk = s.crcOk := rfl
@[simp] theorem State.issue_ovr (v : Word) : (s.issue v).ovr = s.ovr := rfl
@[simp] theorem State.issue_result (v : Word) : (s.issue v).result = s.result := rfl
@[simp] theorem State.issue_crc (v : Word) : (s.issue v).crc = s.crc := rfl
@[simp] theorem State.issue_exc (v : Word) : (s.issue v).exc = s.exc := rfl
@[simp] theorem State.issue_slave (v : Word) : (s.issue v).slave = s.slave := rfl
@[simp] theorem State.issue_func (v : Word) : (s.issue v).func = s.func := rfl
@[simp] theorem State.issue_start (v : Word) : (s.issue v).start = s.start := rfl
@[simp] theorem State.issue_count (v : Word) : (s.issue v).count = s.count := rfl
@[simp] theorem State.issue_bcmd (v : Word) : (s.issue v).bcmd = s.bcmd := rfl
@[simp] theorem State.issue_plen (v : Word) : (s.issue v).plen = s.plen := rfl
@[simp] theorem State.issue_txlen (v : Word) : (s.issue v).txlen = s.txlen := rfl
@[simp] theorem State.issue_rxlen (v : Word) : (s.issue v).rxlen = s.rxlen := rfl
@[simp] theorem State.issue_regcnt (v : Word) : (s.issue v).regcnt = s.regcnt := rfl
@[simp] theorem State.issue_chunks (v : Word) : (s.issue v).chunks = s.chunks := rfl
@[simp] theorem State.issue_txbuf (v : Word) : (s.issue v).txbuf = s.txbuf := rfl
@[simp] theorem State.issue_rxbuf (v : Word) : (s.issue v).rxbuf = s.rxbuf := rfl
@[simp] theorem State.issue_regs (v : Word) : (s.issue v).regs = s.regs := rfl
@[simp] theorem State.issue_rst (v : Word) : (s.issue v).rst = s.rst := rfl
@[simp] theorem State.issue_agenda (v : Word) : (s.issue v).agenda = s.agenda := rfl
@[simp] theorem State.issue_answers (v : Word) : (s.issue v).answers = s.answers := rfl
@[simp] theorem State.issue_draws (v : Word) : (s.issue v).draws = s.draws := rfl
@[simp] theorem State.issue_port (v : Word) : (s.issue v).port = s.port := rfl
@[simp] theorem State.issue_rdata (v : Word) : (s.issue v).rdata = s.rdata := rfl

/-! ### complete -/

@[simp] theorem State.complete_params (r : ResultCode) : (s.complete r).params = s.params := rfl
@[simp] theorem State.complete_seq (r : ResultCode) : (s.complete r).seq = .idle := rfl
@[simp] theorem State.complete_latch (r : ResultCode) : (s.complete r).latch = s.latch := rfl
@[simp] theorem State.complete_privCrc (r : ResultCode) : (s.complete r).privCrc = s.privCrc := rfl
@[simp] theorem State.complete_busy (r : ResultCode) : (s.complete r).busy = false := rfl
@[simp] theorem State.complete_done (r : ResultCode) : (s.complete r).done = true := rfl
@[simp] theorem State.complete_crcOk (r : ResultCode) : (s.complete r).crcOk = s.crcOk := rfl
@[simp] theorem State.complete_ovr (r : ResultCode) : (s.complete r).ovr = s.ovr := rfl
@[simp] theorem State.complete_result (r : ResultCode) : (s.complete r).result = r.code := rfl
@[simp] theorem State.complete_crc (r : ResultCode) : (s.complete r).crc = s.crc := rfl
@[simp] theorem State.complete_exc (r : ResultCode) : (s.complete r).exc = s.exc := rfl
@[simp] theorem State.complete_slave (r : ResultCode) : (s.complete r).slave = s.slave := rfl
@[simp] theorem State.complete_func (r : ResultCode) : (s.complete r).func = s.func := rfl
@[simp] theorem State.complete_start (r : ResultCode) : (s.complete r).start = s.start := rfl
@[simp] theorem State.complete_count (r : ResultCode) : (s.complete r).count = s.count := rfl
@[simp] theorem State.complete_bcmd (r : ResultCode) : (s.complete r).bcmd = s.bcmd := rfl
@[simp] theorem State.complete_plen (r : ResultCode) : (s.complete r).plen = s.plen := rfl
@[simp] theorem State.complete_txlen (r : ResultCode) : (s.complete r).txlen = s.txlen := rfl
@[simp] theorem State.complete_rxlen (r : ResultCode) : (s.complete r).rxlen = s.rxlen := rfl
@[simp] theorem State.complete_regcnt (r : ResultCode) : (s.complete r).regcnt = s.regcnt := rfl
@[simp] theorem State.complete_chunks (r : ResultCode) : (s.complete r).chunks = s.chunks := rfl
@[simp] theorem State.complete_txbuf (r : ResultCode) : (s.complete r).txbuf = s.txbuf := rfl
@[simp] theorem State.complete_rxbuf (r : ResultCode) : (s.complete r).rxbuf = s.rxbuf := rfl
@[simp] theorem State.complete_regs (r : ResultCode) : (s.complete r).regs = s.regs := rfl
@[simp] theorem State.complete_rst (r : ResultCode) : (s.complete r).rst = s.rst := rfl
@[simp] theorem State.complete_agenda (r : ResultCode) : (s.complete r).agenda = s.agenda := rfl
@[simp] theorem State.complete_answers (r : ResultCode) : (s.complete r).answers = s.answers := rfl
@[simp] theorem State.complete_draws (r : ResultCode) : (s.complete r).draws = s.draws := rfl
@[simp] theorem State.complete_port (r : ResultCode) : (s.complete r).port = s.port := rfl
@[simp] theorem State.complete_rdata (r : ResultCode) : (s.complete r).rdata = s.rdata := rfl

/-! ### logged -/

@[simp] theorem State.logged_params (t : Transaction) : (s.logged t).params = s.params := rfl
@[simp] theorem State.logged_seq (t : Transaction) : (s.logged t).seq = s.seq := rfl
@[simp] theorem State.logged_latch (t : Transaction) : (s.logged t).latch = s.latch := rfl
@[simp] theorem State.logged_privCrc (t : Transaction) : (s.logged t).privCrc = s.privCrc := rfl
@[simp] theorem State.logged_busy (t : Transaction) : (s.logged t).busy = s.busy := rfl
@[simp] theorem State.logged_done (t : Transaction) : (s.logged t).done = s.done := rfl
@[simp] theorem State.logged_crcOk (t : Transaction) : (s.logged t).crcOk = s.crcOk := rfl
@[simp] theorem State.logged_ovr (t : Transaction) : (s.logged t).ovr = s.ovr := rfl
@[simp] theorem State.logged_result (t : Transaction) : (s.logged t).result = s.result := rfl
@[simp] theorem State.logged_crc (t : Transaction) : (s.logged t).crc = s.crc := rfl
@[simp] theorem State.logged_exc (t : Transaction) : (s.logged t).exc = s.exc := rfl
@[simp] theorem State.logged_slave (t : Transaction) : (s.logged t).slave = s.slave := rfl
@[simp] theorem State.logged_func (t : Transaction) : (s.logged t).func = s.func := rfl
@[simp] theorem State.logged_start (t : Transaction) : (s.logged t).start = s.start := rfl
@[simp] theorem State.logged_count (t : Transaction) : (s.logged t).count = s.count := rfl
@[simp] theorem State.logged_bcmd (t : Transaction) : (s.logged t).bcmd = s.bcmd := rfl
@[simp] theorem State.logged_plen (t : Transaction) : (s.logged t).plen = s.plen := rfl
@[simp] theorem State.logged_txlen (t : Transaction) : (s.logged t).txlen = s.txlen := rfl
@[simp] theorem State.logged_rxlen (t : Transaction) : (s.logged t).rxlen = s.rxlen := rfl
@[simp] theorem State.logged_regcnt (t : Transaction) : (s.logged t).regcnt = s.regcnt := rfl
@[simp] theorem State.logged_chunks (t : Transaction) : (s.logged t).chunks = s.chunks := rfl
@[simp] theorem State.logged_txbuf (t : Transaction) : (s.logged t).txbuf = s.txbuf := rfl
@[simp] theorem State.logged_rxbuf (t : Transaction) : (s.logged t).rxbuf = s.rxbuf := rfl
@[simp] theorem State.logged_regs (t : Transaction) : (s.logged t).regs = s.regs := rfl
@[simp] theorem State.logged_rst (t : Transaction) : (s.logged t).rst = s.rst := rfl
@[simp] theorem State.logged_agenda (t : Transaction) : (s.logged t).agenda = s.agenda := rfl
@[simp] theorem State.logged_answers (t : Transaction) : (s.logged t).answers = s.answers := rfl
@[simp] theorem State.logged_draws (t : Transaction) : (s.logged t).draws = s.draws := rfl
@[simp] theorem State.logged_port (t : Transaction) : (s.logged t).port = s.port ++ [t] := rfl
@[simp] theorem State.logged_rdata (t : Transaction) : (s.logged t).rdata = s.rdata := rfl

/-! ### transacted -/

@[simp] theorem State.transacted_params (t : Transaction) : (s.transacted t).params = s.params := rfl
@[simp] theorem State.transacted_seq (t : Transaction) : (s.transacted t).seq = s.seq := rfl
@[simp] theorem State.transacted_latch (t : Transaction) : (s.transacted t).latch = s.latch := rfl
@[simp] theorem State.transacted_privCrc (t : Transaction) : (s.transacted t).privCrc = s.privCrc := rfl
@[simp] theorem State.transacted_busy (t : Transaction) : (s.transacted t).busy = s.busy := rfl
@[simp] theorem State.transacted_done (t : Transaction) : (s.transacted t).done = s.done := rfl
@[simp] theorem State.transacted_crcOk (t : Transaction) : (s.transacted t).crcOk = s.crcOk := rfl
@[simp] theorem State.transacted_ovr (t : Transaction) : (s.transacted t).ovr = s.ovr := rfl
@[simp] theorem State.transacted_result (t : Transaction) : (s.transacted t).result = s.result := rfl
@[simp] theorem State.transacted_crc (t : Transaction) : (s.transacted t).crc = s.crc := rfl
@[simp] theorem State.transacted_exc (t : Transaction) : (s.transacted t).exc = s.exc := rfl
@[simp] theorem State.transacted_slave (t : Transaction) : (s.transacted t).slave = s.slave := rfl
@[simp] theorem State.transacted_func (t : Transaction) : (s.transacted t).func = s.func := rfl
@[simp] theorem State.transacted_start (t : Transaction) : (s.transacted t).start = s.start := rfl
@[simp] theorem State.transacted_count (t : Transaction) : (s.transacted t).count = s.count := rfl
@[simp] theorem State.transacted_bcmd (t : Transaction) : (s.transacted t).bcmd = s.bcmd := rfl
@[simp] theorem State.transacted_plen (t : Transaction) : (s.transacted t).plen = s.plen := rfl
@[simp] theorem State.transacted_txlen (t : Transaction) : (s.transacted t).txlen = s.txlen := rfl
@[simp] theorem State.transacted_rxlen (t : Transaction) : (s.transacted t).rxlen = s.rxlen := rfl
@[simp] theorem State.transacted_regcnt (t : Transaction) : (s.transacted t).regcnt = s.regcnt := rfl
@[simp] theorem State.transacted_chunks (t : Transaction) : (s.transacted t).chunks = s.chunks := rfl
@[simp] theorem State.transacted_txbuf (t : Transaction) : (s.transacted t).txbuf = s.txbuf := rfl
@[simp] theorem State.transacted_rxbuf (t : Transaction) : (s.transacted t).rxbuf = s.rxbuf := rfl
@[simp] theorem State.transacted_regs (t : Transaction) : (s.transacted t).regs = s.regs := rfl
@[simp] theorem State.transacted_rst (t : Transaction) : (s.transacted t).rst = s.rst := rfl
@[simp] theorem State.transacted_agenda (t : Transaction) : (s.transacted t).agenda = s.agenda := rfl
@[simp] theorem State.transacted_answers (t : Transaction) : (s.transacted t).answers = s.answers.tail := rfl
@[simp] theorem State.transacted_draws (t : Transaction) : (s.transacted t).draws =
    if s.answers.isEmpty = true then s.draws + 1 else s.draws := rfl
@[simp] theorem State.transacted_port (t : Transaction) : (s.transacted t).port = s.port ++ [t] := rfl
@[simp] theorem State.transacted_rdata (t : Transaction) : (s.transacted t).rdata = s.rdata := rfl

/-! ### storeRx -/

@[simp] theorem State.storeRx_params (b : Nat) (bs : List Byte) : (s.storeRx b bs).params = s.params := rfl
@[simp] theorem State.storeRx_seq (b : Nat) (bs : List Byte) : (s.storeRx b bs).seq = s.seq := rfl
@[simp] theorem State.storeRx_latch (b : Nat) (bs : List Byte) : (s.storeRx b bs).latch = s.latch := rfl
@[simp] theorem State.storeRx_privCrc (b : Nat) (bs : List Byte) : (s.storeRx b bs).privCrc = s.privCrc := rfl
@[simp] theorem State.storeRx_busy (b : Nat) (bs : List Byte) : (s.storeRx b bs).busy = s.busy := rfl
@[simp] theorem State.storeRx_done (b : Nat) (bs : List Byte) : (s.storeRx b bs).done = s.done := rfl
@[simp] theorem State.storeRx_crcOk (b : Nat) (bs : List Byte) : (s.storeRx b bs).crcOk = s.crcOk := rfl
@[simp] theorem State.storeRx_ovr (b : Nat) (bs : List Byte) : (s.storeRx b bs).ovr = s.ovr := rfl
@[simp] theorem State.storeRx_result (b : Nat) (bs : List Byte) : (s.storeRx b bs).result = s.result := rfl
@[simp] theorem State.storeRx_crc (b : Nat) (bs : List Byte) : (s.storeRx b bs).crc = s.crc := rfl
@[simp] theorem State.storeRx_exc (b : Nat) (bs : List Byte) : (s.storeRx b bs).exc = s.exc := rfl
@[simp] theorem State.storeRx_slave (b : Nat) (bs : List Byte) : (s.storeRx b bs).slave = s.slave := rfl
@[simp] theorem State.storeRx_func (b : Nat) (bs : List Byte) : (s.storeRx b bs).func = s.func := rfl
@[simp] theorem State.storeRx_start (b : Nat) (bs : List Byte) : (s.storeRx b bs).start = s.start := rfl
@[simp] theorem State.storeRx_count (b : Nat) (bs : List Byte) : (s.storeRx b bs).count = s.count := rfl
@[simp] theorem State.storeRx_bcmd (b : Nat) (bs : List Byte) : (s.storeRx b bs).bcmd = s.bcmd := rfl
@[simp] theorem State.storeRx_plen (b : Nat) (bs : List Byte) : (s.storeRx b bs).plen = s.plen := rfl
@[simp] theorem State.storeRx_txlen (b : Nat) (bs : List Byte) : (s.storeRx b bs).txlen = s.txlen := rfl
@[simp] theorem State.storeRx_rxlen (b : Nat) (bs : List Byte) : (s.storeRx b bs).rxlen = BitVec.ofNat 16 (b + bs.length) := rfl
@[simp] theorem State.storeRx_regcnt (b : Nat) (bs : List Byte) : (s.storeRx b bs).regcnt = s.regcnt := rfl
@[simp] theorem State.storeRx_chunks (b : Nat) (bs : List Byte) : (s.storeRx b bs).chunks = s.chunks := rfl
@[simp] theorem State.storeRx_txbuf (b : Nat) (bs : List Byte) : (s.storeRx b bs).txbuf = s.txbuf := rfl
@[simp] theorem State.storeRx_rxbuf (b : Nat) (bs : List Byte) : (s.storeRx b bs).rxbuf = Memory.writeRange s.rxbuf b bs := rfl
@[simp] theorem State.storeRx_regs (b : Nat) (bs : List Byte) : (s.storeRx b bs).regs = s.regs := rfl
@[simp] theorem State.storeRx_rst (b : Nat) (bs : List Byte) : (s.storeRx b bs).rst = s.rst := rfl
@[simp] theorem State.storeRx_agenda (b : Nat) (bs : List Byte) : (s.storeRx b bs).agenda = s.agenda := rfl
@[simp] theorem State.storeRx_answers (b : Nat) (bs : List Byte) : (s.storeRx b bs).answers = s.answers := rfl
@[simp] theorem State.storeRx_draws (b : Nat) (bs : List Byte) : (s.storeRx b bs).draws = s.draws := rfl
@[simp] theorem State.storeRx_port (b : Nat) (bs : List Byte) : (s.storeRx b bs).port = s.port := rfl
@[simp] theorem State.storeRx_rdata (b : Nat) (bs : List Byte) : (s.storeRx b bs).rdata = s.rdata := rfl

/-! ### buildMb -/

@[simp] theorem State.buildMb_params : (s.buildMb).params = s.params := rfl
@[simp] theorem State.buildMb_seq : (s.buildMb).seq = s.seq := rfl
@[simp] theorem State.buildMb_latch : (s.buildMb).latch = s.latch := rfl
@[simp] theorem State.buildMb_privCrc : (s.buildMb).privCrc = crc16 (mbHeader s.latch.slave s.latch.func s.latch.start s.latch.count) := rfl
@[simp] theorem State.buildMb_busy : (s.buildMb).busy = s.busy := rfl
@[simp] theorem State.buildMb_done : (s.buildMb).done = s.done := rfl
@[simp] theorem State.buildMb_crcOk : (s.buildMb).crcOk = s.crcOk := rfl
@[simp] theorem State.buildMb_ovr : (s.buildMb).ovr = s.ovr := rfl
@[simp] theorem State.buildMb_result : (s.buildMb).result = s.result := rfl
@[simp] theorem State.buildMb_crc : (s.buildMb).crc = s.crc := rfl
@[simp] theorem State.buildMb_exc : (s.buildMb).exc = s.exc := rfl
@[simp] theorem State.buildMb_slave : (s.buildMb).slave = s.slave := rfl
@[simp] theorem State.buildMb_func : (s.buildMb).func = s.func := rfl
@[simp] theorem State.buildMb_start : (s.buildMb).start = s.start := rfl
@[simp] theorem State.buildMb_count : (s.buildMb).count = s.count := rfl
@[simp] theorem State.buildMb_bcmd : (s.buildMb).bcmd = s.bcmd := rfl
@[simp] theorem State.buildMb_plen : (s.buildMb).plen = s.plen := rfl
@[simp] theorem State.buildMb_txlen : (s.buildMb).txlen = 8#16 := rfl
@[simp] theorem State.buildMb_rxlen : (s.buildMb).rxlen = s.rxlen := rfl
@[simp] theorem State.buildMb_regcnt : (s.buildMb).regcnt = s.regcnt := rfl
@[simp] theorem State.buildMb_chunks : (s.buildMb).chunks = s.chunks := rfl
@[simp] theorem State.buildMb_txbuf : (s.buildMb).txbuf = Memory.writeRange s.txbuf 0 (mbRequest s.latch.slave s.latch.func s.latch.start s.latch.count) := rfl
@[simp] theorem State.buildMb_rxbuf : (s.buildMb).rxbuf = s.rxbuf := rfl
@[simp] theorem State.buildMb_regs : (s.buildMb).regs = s.regs := rfl
@[simp] theorem State.buildMb_rst : (s.buildMb).rst = s.rst := rfl
@[simp] theorem State.buildMb_agenda : (s.buildMb).agenda = s.agenda := rfl
@[simp] theorem State.buildMb_answers : (s.buildMb).answers = s.answers := rfl
@[simp] theorem State.buildMb_draws : (s.buildMb).draws = s.draws := rfl
@[simp] theorem State.buildMb_port : (s.buildMb).port = s.port := rfl
@[simp] theorem State.buildMb_rdata : (s.buildMb).rdata = s.rdata := rfl

/-! ### buildBms -/

@[simp] theorem State.buildBms_params (p : List Byte) : (s.buildBms p).params = s.params := rfl
@[simp] theorem State.buildBms_seq (p : List Byte) : (s.buildBms p).seq = s.seq := rfl
@[simp] theorem State.buildBms_latch (p : List Byte) : (s.buildBms p).latch = s.latch := rfl
@[simp] theorem State.buildBms_privCrc (p : List Byte) : (s.buildBms p).privCrc = s.privCrc := rfl
@[simp] theorem State.buildBms_busy (p : List Byte) : (s.buildBms p).busy = s.busy := rfl
@[simp] theorem State.buildBms_done (p : List Byte) : (s.buildBms p).done = s.done := rfl
@[simp] theorem State.buildBms_crcOk (p : List Byte) : (s.buildBms p).crcOk = s.crcOk := rfl
@[simp] theorem State.buildBms_ovr (p : List Byte) : (s.buildBms p).ovr = s.ovr := rfl
@[simp] theorem State.buildBms_result (p : List Byte) : (s.buildBms p).result = s.result := rfl
@[simp] theorem State.buildBms_crc (p : List Byte) : (s.buildBms p).crc = s.crc := rfl
@[simp] theorem State.buildBms_exc (p : List Byte) : (s.buildBms p).exc = s.exc := rfl
@[simp] theorem State.buildBms_slave (p : List Byte) : (s.buildBms p).slave = s.slave := rfl
@[simp] theorem State.buildBms_func (p : List Byte) : (s.buildBms p).func = s.func := rfl
@[simp] theorem State.buildBms_start (p : List Byte) : (s.buildBms p).start = s.start := rfl
@[simp] theorem State.buildBms_count (p : List Byte) : (s.buildBms p).count = s.count := rfl
@[simp] theorem State.buildBms_bcmd (p : List Byte) : (s.buildBms p).bcmd = s.bcmd := rfl
@[simp] theorem State.buildBms_plen (p : List Byte) : (s.buildBms p).plen = s.plen := rfl
@[simp] theorem State.buildBms_txlen (p : List Byte) : (s.buildBms p).txlen = BitVec.ofNat 16 (8 + s.latch.plen.toNat) := rfl
@[simp] theorem State.buildBms_rxlen (p : List Byte) : (s.buildBms p).rxlen = s.rxlen := rfl
@[simp] theorem State.buildBms_regcnt (p : List Byte) : (s.buildBms p).regcnt = s.regcnt := rfl
@[simp] theorem State.buildBms_chunks (p : List Byte) : (s.buildBms p).chunks = s.chunks := rfl
@[simp] theorem State.buildBms_txbuf (p : List Byte) : (s.buildBms p).txbuf = Memory.write (Memory.writeRange s.txbuf 0 (bmsHeader s.latch.bcmd s.latch.plen))
      (7 + s.latch.plen.toNat) (sum8 (bmsHeader s.latch.bcmd s.latch.plen ++ p)) := rfl
@[simp] theorem State.buildBms_rxbuf (p : List Byte) : (s.buildBms p).rxbuf = s.rxbuf := rfl
@[simp] theorem State.buildBms_regs (p : List Byte) : (s.buildBms p).regs = s.regs := rfl
@[simp] theorem State.buildBms_rst (p : List Byte) : (s.buildBms p).rst = s.rst := rfl
@[simp] theorem State.buildBms_agenda (p : List Byte) : (s.buildBms p).agenda = s.agenda := rfl
@[simp] theorem State.buildBms_answers (p : List Byte) : (s.buildBms p).answers = s.answers := rfl
@[simp] theorem State.buildBms_draws (p : List Byte) : (s.buildBms p).draws = s.draws := rfl
@[simp] theorem State.buildBms_port (p : List Byte) : (s.buildBms p).port = s.port := rfl
@[simp] theorem State.buildBms_rdata (p : List Byte) : (s.buildBms p).rdata = s.rdata := rfl

/-! ### popTurn -/

@[simp] theorem State.popTurn_params : (s.popTurn).params = s.params := rfl
@[simp] theorem State.popTurn_seq : (s.popTurn).seq = s.seq := rfl
@[simp] theorem State.popTurn_latch : (s.popTurn).latch = s.latch := rfl
@[simp] theorem State.popTurn_privCrc : (s.popTurn).privCrc = s.privCrc := rfl
@[simp] theorem State.popTurn_busy : (s.popTurn).busy = s.busy := rfl
@[simp] theorem State.popTurn_done : (s.popTurn).done = s.done := rfl
@[simp] theorem State.popTurn_crcOk : (s.popTurn).crcOk = s.crcOk := rfl
@[simp] theorem State.popTurn_ovr : (s.popTurn).ovr = s.ovr := rfl
@[simp] theorem State.popTurn_result : (s.popTurn).result = s.result := rfl
@[simp] theorem State.popTurn_crc : (s.popTurn).crc = s.crc := rfl
@[simp] theorem State.popTurn_exc : (s.popTurn).exc = s.exc := rfl
@[simp] theorem State.popTurn_slave : (s.popTurn).slave = s.slave := rfl
@[simp] theorem State.popTurn_func : (s.popTurn).func = s.func := rfl
@[simp] theorem State.popTurn_start : (s.popTurn).start = s.start := rfl
@[simp] theorem State.popTurn_count : (s.popTurn).count = s.count := rfl
@[simp] theorem State.popTurn_bcmd : (s.popTurn).bcmd = s.bcmd := rfl
@[simp] theorem State.popTurn_plen : (s.popTurn).plen = s.plen := rfl
@[simp] theorem State.popTurn_txlen : (s.popTurn).txlen = s.txlen := rfl
@[simp] theorem State.popTurn_rxlen : (s.popTurn).rxlen = s.rxlen := rfl
@[simp] theorem State.popTurn_regcnt : (s.popTurn).regcnt = s.regcnt := rfl
@[simp] theorem State.popTurn_chunks : (s.popTurn).chunks = s.chunks := rfl
@[simp] theorem State.popTurn_txbuf : (s.popTurn).txbuf = s.txbuf := rfl
@[simp] theorem State.popTurn_rxbuf : (s.popTurn).rxbuf = s.rxbuf := rfl
@[simp] theorem State.popTurn_regs : (s.popTurn).regs = s.regs := rfl
@[simp] theorem State.popTurn_rst : (s.popTurn).rst = s.rst := rfl
@[simp] theorem State.popTurn_agenda : (s.popTurn).agenda = s.agenda.tail := rfl
@[simp] theorem State.popTurn_answers : (s.popTurn).answers = s.answers := rfl
@[simp] theorem State.popTurn_draws : (s.popTurn).draws = s.draws := rfl
@[simp] theorem State.popTurn_port : (s.popTurn).port = s.port := rfl
@[simp] theorem State.popTurn_rdata : (s.popTurn).rdata = s.rdata := rfl

/-! ### returned -/

@[simp] theorem State.returned_params (v : Word) : (s.returned v).params = s.params := rfl
@[simp] theorem State.returned_seq (v : Word) : (s.returned v).seq = s.seq := rfl
@[simp] theorem State.returned_latch (v : Word) : (s.returned v).latch = s.latch := rfl
@[simp] theorem State.returned_privCrc (v : Word) : (s.returned v).privCrc = s.privCrc := rfl
@[simp] theorem State.returned_busy (v : Word) : (s.returned v).busy = s.busy := rfl
@[simp] theorem State.returned_done (v : Word) : (s.returned v).done = s.done := rfl
@[simp] theorem State.returned_crcOk (v : Word) : (s.returned v).crcOk = s.crcOk := rfl
@[simp] theorem State.returned_ovr (v : Word) : (s.returned v).ovr = s.ovr := rfl
@[simp] theorem State.returned_result (v : Word) : (s.returned v).result = s.result := rfl
@[simp] theorem State.returned_crc (v : Word) : (s.returned v).crc = s.crc := rfl
@[simp] theorem State.returned_exc (v : Word) : (s.returned v).exc = s.exc := rfl
@[simp] theorem State.returned_slave (v : Word) : (s.returned v).slave = s.slave := rfl
@[simp] theorem State.returned_func (v : Word) : (s.returned v).func = s.func := rfl
@[simp] theorem State.returned_start (v : Word) : (s.returned v).start = s.start := rfl
@[simp] theorem State.returned_count (v : Word) : (s.returned v).count = s.count := rfl
@[simp] theorem State.returned_bcmd (v : Word) : (s.returned v).bcmd = s.bcmd := rfl
@[simp] theorem State.returned_plen (v : Word) : (s.returned v).plen = s.plen := rfl
@[simp] theorem State.returned_txlen (v : Word) : (s.returned v).txlen = s.txlen := rfl
@[simp] theorem State.returned_rxlen (v : Word) : (s.returned v).rxlen = s.rxlen := rfl
@[simp] theorem State.returned_regcnt (v : Word) : (s.returned v).regcnt = s.regcnt := rfl
@[simp] theorem State.returned_chunks (v : Word) : (s.returned v).chunks = s.chunks := rfl
@[simp] theorem State.returned_txbuf (v : Word) : (s.returned v).txbuf = s.txbuf := rfl
@[simp] theorem State.returned_rxbuf (v : Word) : (s.returned v).rxbuf = s.rxbuf := rfl
@[simp] theorem State.returned_regs (v : Word) : (s.returned v).regs = s.regs := rfl
@[simp] theorem State.returned_rst (v : Word) : (s.returned v).rst = s.rst := rfl
@[simp] theorem State.returned_agenda (v : Word) : (s.returned v).agenda = s.agenda := rfl
@[simp] theorem State.returned_answers (v : Word) : (s.returned v).answers = s.answers := rfl
@[simp] theorem State.returned_draws (v : Word) : (s.returned v).draws = s.draws := rfl
@[simp] theorem State.returned_port (v : Word) : (s.returned v).port = s.port := rfl
@[simp] theorem State.returned_rdata (v : Word) : (s.returned v).rdata = s.rdata ++ [v] := rfl

/-! ### applyReset -/

@[simp] theorem State.applyReset_params : s.applyReset.params = s.params := rfl
@[simp] theorem State.applyReset_seq : s.applyReset.seq = .idle := rfl
@[simp] theorem State.applyReset_latch : s.applyReset.latch = Latch.reset := rfl
@[simp] theorem State.applyReset_privCrc : s.applyReset.privCrc = 0#16 := rfl
@[simp] theorem State.applyReset_busy : s.applyReset.busy = false := rfl
@[simp] theorem State.applyReset_done : s.applyReset.done = false := rfl
@[simp] theorem State.applyReset_crcOk : s.applyReset.crcOk = false := rfl
@[simp] theorem State.applyReset_ovr : s.applyReset.ovr = false := rfl
@[simp] theorem State.applyReset_result : s.applyReset.result = 0#4 := rfl
@[simp] theorem State.applyReset_crc : s.applyReset.crc = 0xFFFF#16 := rfl
@[simp] theorem State.applyReset_exc : s.applyReset.exc = 0#8 := rfl
@[simp] theorem State.applyReset_slave : s.applyReset.slave = 0#8 := rfl
@[simp] theorem State.applyReset_func : s.applyReset.func = 0#8 := rfl
@[simp] theorem State.applyReset_start : s.applyReset.start = 0#16 := rfl
@[simp] theorem State.applyReset_count : s.applyReset.count = 0#16 := rfl
@[simp] theorem State.applyReset_bcmd : s.applyReset.bcmd = 0#8 := rfl
@[simp] theorem State.applyReset_plen : s.applyReset.plen = 0#8 := rfl
@[simp] theorem State.applyReset_txlen : s.applyReset.txlen = 0#16 := rfl
@[simp] theorem State.applyReset_rxlen : s.applyReset.rxlen = 0#16 := rfl
@[simp] theorem State.applyReset_regcnt : s.applyReset.regcnt = 0#16 := rfl
@[simp] theorem State.applyReset_chunks : s.applyReset.chunks = 0#3 := rfl
@[simp] theorem State.applyReset_txbuf : s.applyReset.txbuf = s.txbuf := rfl
@[simp] theorem State.applyReset_rxbuf : s.applyReset.rxbuf = s.rxbuf := rfl
@[simp] theorem State.applyReset_regs : s.applyReset.regs = s.regs := rfl
@[simp] theorem State.applyReset_rst : s.applyReset.rst = s.rst := rfl
@[simp] theorem State.applyReset_agenda : s.applyReset.agenda = s.agenda := rfl
@[simp] theorem State.applyReset_answers : s.applyReset.answers = s.answers := rfl
@[simp] theorem State.applyReset_draws : s.applyReset.draws = s.draws := rfl
@[simp] theorem State.applyReset_port : s.applyReset.port = s.port := rfl
@[simp] theorem State.applyReset_rdata : s.applyReset.rdata = s.rdata := rfl
/-! ### writeDecode and finishMb: what no decode result changes -/

@[simp] theorem State.writeDecode_params (r : MbResult) : (s.writeDecode r).params = s.params := by
  cases r <;> rfl
@[simp] theorem State.writeDecode_seq (r : MbResult) : (s.writeDecode r).seq = s.seq := by
  cases r <;> rfl
@[simp] theorem State.writeDecode_latch (r : MbResult) : (s.writeDecode r).latch = s.latch := by
  cases r <;> rfl
@[simp] theorem State.writeDecode_privCrc (r : MbResult) : (s.writeDecode r).privCrc = s.privCrc := by
  cases r <;> rfl
@[simp] theorem State.writeDecode_busy (r : MbResult) : (s.writeDecode r).busy = s.busy := by
  cases r <;> rfl
@[simp] theorem State.writeDecode_done (r : MbResult) : (s.writeDecode r).done = s.done := by
  cases r <;> rfl
@[simp] theorem State.writeDecode_crcOk (r : MbResult) : (s.writeDecode r).crcOk = s.crcOk := by
  cases r <;> rfl
@[simp] theorem State.writeDecode_ovr (r : MbResult) : (s.writeDecode r).ovr = s.ovr := by
  cases r <;> rfl
@[simp] theorem State.writeDecode_result (r : MbResult) : (s.writeDecode r).result = s.result := by
  cases r <;> rfl
@[simp] theorem State.writeDecode_crc (r : MbResult) : (s.writeDecode r).crc = s.crc := by
  cases r <;> rfl
@[simp] theorem State.writeDecode_slave (r : MbResult) : (s.writeDecode r).slave = s.slave := by
  cases r <;> rfl
@[simp] theorem State.writeDecode_func (r : MbResult) : (s.writeDecode r).func = s.func := by
  cases r <;> rfl
@[simp] theorem State.writeDecode_start (r : MbResult) : (s.writeDecode r).start = s.start := by
  cases r <;> rfl
@[simp] theorem State.writeDecode_count (r : MbResult) : (s.writeDecode r).count = s.count := by
  cases r <;> rfl
@[simp] theorem State.writeDecode_bcmd (r : MbResult) : (s.writeDecode r).bcmd = s.bcmd := by
  cases r <;> rfl
@[simp] theorem State.writeDecode_plen (r : MbResult) : (s.writeDecode r).plen = s.plen := by
  cases r <;> rfl
@[simp] theorem State.writeDecode_txlen (r : MbResult) : (s.writeDecode r).txlen = s.txlen := by
  cases r <;> rfl
@[simp] theorem State.writeDecode_rxlen (r : MbResult) : (s.writeDecode r).rxlen = s.rxlen := by
  cases r <;> rfl
@[simp] theorem State.writeDecode_chunks (r : MbResult) : (s.writeDecode r).chunks = s.chunks := by
  cases r <;> rfl
@[simp] theorem State.writeDecode_txbuf (r : MbResult) : (s.writeDecode r).txbuf = s.txbuf := by
  cases r <;> rfl
@[simp] theorem State.writeDecode_rxbuf (r : MbResult) : (s.writeDecode r).rxbuf = s.rxbuf := by
  cases r <;> rfl
@[simp] theorem State.writeDecode_rst (r : MbResult) : (s.writeDecode r).rst = s.rst := by
  cases r <;> rfl
@[simp] theorem State.writeDecode_agenda (r : MbResult) : (s.writeDecode r).agenda = s.agenda := by
  cases r <;> rfl
@[simp] theorem State.writeDecode_answers (r : MbResult) : (s.writeDecode r).answers = s.answers := by
  cases r <;> rfl
@[simp] theorem State.writeDecode_draws (r : MbResult) : (s.writeDecode r).draws = s.draws := by
  cases r <;> rfl
@[simp] theorem State.writeDecode_port (r : MbResult) : (s.writeDecode r).port = s.port := by
  cases r <;> rfl
@[simp] theorem State.writeDecode_rdata (r : MbResult) : (s.writeDecode r).rdata = s.rdata := by
  cases r <;> rfl
@[simp] theorem State.finishMb_params (r : MbResult) : (s.finishMb r).params = s.params := by
  cases r <;> rfl
@[simp] theorem State.finishMb_seq (r : MbResult) : (s.finishMb r).seq = .idle := by
  cases r <;> rfl
@[simp] theorem State.finishMb_latch (r : MbResult) : (s.finishMb r).latch = s.latch := by
  cases r <;> rfl
@[simp] theorem State.finishMb_privCrc (r : MbResult) : (s.finishMb r).privCrc = s.privCrc := by
  cases r <;> rfl
@[simp] theorem State.finishMb_busy (r : MbResult) : (s.finishMb r).busy = false := by
  cases r <;> rfl
@[simp] theorem State.finishMb_done (r : MbResult) : (s.finishMb r).done = true := by
  cases r <;> rfl
@[simp] theorem State.finishMb_crcOk (r : MbResult) : (s.finishMb r).crcOk = s.crcOk := by
  cases r <;> rfl
@[simp] theorem State.finishMb_ovr (r : MbResult) : (s.finishMb r).ovr = s.ovr := by
  cases r <;> rfl
@[simp] theorem State.finishMb_result (r : MbResult) : (s.finishMb r).result = r.resultCode.code := by
  cases r <;> rfl
@[simp] theorem State.finishMb_crc (r : MbResult) : (s.finishMb r).crc = s.crc := by
  cases r <;> rfl
@[simp] theorem State.finishMb_exc (r : MbResult) : (s.finishMb r).exc = (s.writeDecode r).exc := rfl
@[simp] theorem State.finishMb_slave (r : MbResult) : (s.finishMb r).slave = s.slave := by
  cases r <;> rfl
@[simp] theorem State.finishMb_func (r : MbResult) : (s.finishMb r).func = s.func := by
  cases r <;> rfl
@[simp] theorem State.finishMb_start (r : MbResult) : (s.finishMb r).start = s.start := by
  cases r <;> rfl
@[simp] theorem State.finishMb_count (r : MbResult) : (s.finishMb r).count = s.count := by
  cases r <;> rfl
@[simp] theorem State.finishMb_bcmd (r : MbResult) : (s.finishMb r).bcmd = s.bcmd := by
  cases r <;> rfl
@[simp] theorem State.finishMb_plen (r : MbResult) : (s.finishMb r).plen = s.plen := by
  cases r <;> rfl
@[simp] theorem State.finishMb_txlen (r : MbResult) : (s.finishMb r).txlen = s.txlen := by
  cases r <;> rfl
@[simp] theorem State.finishMb_rxlen (r : MbResult) : (s.finishMb r).rxlen = s.rxlen := by
  cases r <;> rfl
@[simp] theorem State.finishMb_regcnt (r : MbResult) : (s.finishMb r).regcnt = (s.writeDecode r).regcnt := rfl
@[simp] theorem State.finishMb_chunks (r : MbResult) : (s.finishMb r).chunks = s.chunks := by
  cases r <;> rfl
@[simp] theorem State.finishMb_txbuf (r : MbResult) : (s.finishMb r).txbuf = s.txbuf := by
  cases r <;> rfl
@[simp] theorem State.finishMb_rxbuf (r : MbResult) : (s.finishMb r).rxbuf = s.rxbuf := by
  cases r <;> rfl
@[simp] theorem State.finishMb_regs (r : MbResult) : (s.finishMb r).regs = (s.writeDecode r).regs := rfl
@[simp] theorem State.finishMb_rst (r : MbResult) : (s.finishMb r).rst = s.rst := by
  cases r <;> rfl
@[simp] theorem State.finishMb_agenda (r : MbResult) : (s.finishMb r).agenda = s.agenda := by
  cases r <;> rfl
@[simp] theorem State.finishMb_answers (r : MbResult) : (s.finishMb r).answers = s.answers := by
  cases r <;> rfl
@[simp] theorem State.finishMb_draws (r : MbResult) : (s.finishMb r).draws = s.draws := by
  cases r <;> rfl
@[simp] theorem State.finishMb_port (r : MbResult) : (s.finishMb r).port = s.port := by
  cases r <;> rfl
@[simp] theorem State.finishMb_rdata (r : MbResult) : (s.finishMb r).rdata = s.rdata := by
  cases r <;> rfl
end Sys2Proof.Machine
end

