-- ==== Sys2Proof/Laws/Ops.lean ====
section
/-!
SUPPORT. One lemma per shared operation that says once what it does; later proofs cite these instead of unfolding.
-/
namespace Sys2Proof.Machine

/-! ### Ranges and entries -/

/-- Reading a range gives `vs` exactly when the entries from `base` on are `vs`. -/
theorem readRange_eq_some_iff_holds {w n : Nat} {m : Memory w} {base : Nat} {vs : List (BitVec w)} :
    Memory.readRange m base n = some vs ↔ vs.length = n ∧ Holds m base vs := by
  rw [Memory.readRange_eq_some]
  constructor
  · rintro ⟨h, h'⟩; subst h; exact ⟨rfl, h'⟩
  · rintro ⟨h, h'⟩; subst h; exact ⟨rfl, h'⟩

theorem State.rxBytes_eq_some_iff {s : State} {f : List Byte} : s.rxBytes = some f ↔ s.rxIs f :=
  readRange_eq_some_iff_holds

theorem State.txBytes_eq_some_iff {s : State} {f : List Byte} :
    s.txBytes = some f ↔ f.length = s.txlen.toNat ∧ Holds s.txbuf 0 f :=
  readRange_eq_some_iff_holds

theorem State.payload_eq_some_iff {s : State} {p : List Byte} :
    s.payload = some p ↔ p.length = s.latch.plen.toNat ∧ Holds s.txbuf 7 p :=
  readRange_eq_some_iff_holds

theorem State.rxBytes_eq_none_iff {s : State} : s.rxBytes = none ↔ s.rxHole := by
  unfold State.rxBytes State.rxHole
  rw [Memory.readRange_eq_none]
  simp

/-- A range just written holds what was written. -/
theorem holds_writeRange {w : Nat} (m : Memory w) (base : Nat) (vs : List (BitVec w)) :
    Holds (Memory.writeRange m base vs) base vs := by
  intro k hk
  rw [Memory.read_writeRange]
  have : base ≤ base + k ∧ base + k < base + vs.length := by omega
  simp [this]

/-- Outside a written range every entry reads as before. -/
theorem read_writeRange_outside {w : Nat} (m : Memory w) (base k : Nat) (vs : List (BitVec w))
    (h : k < base ∨ base + vs.length ≤ k) : Memory.read (Memory.writeRange m base vs) k = Memory.read m k := by
  rw [Memory.read_writeRange]
  have : ¬ (base ≤ k ∧ k < base + vs.length) := by omega
  simp [this]

theorem holds_append {w : Nat} {m : Memory w} {base : Nat} {us vs : List (BitVec w)}
    (hu : Holds m base us) (hv : Holds m (base + us.length) vs) : Holds m base (us ++ vs) := by
  intro k hk
  by_cases hka : k < us.length
  · rw [List.getElem?_append_left hka]; exact hu k hka
  · rw [List.getElem?_append_right (by omega)]
    have := hv (k - us.length) (by simp at hk; omega)
    rw [← this]
    congr 1
    omega

theorem holds_congr {w : Nat} {m m' : Memory w} {base : Nat} {vs : List (BitVec w)}
    (h : ∀ k, k < vs.length → Memory.read m' (base + k) = Memory.read m (base + k)) (hv : Holds m base vs) :
    Holds m' base vs := fun k hk => (h k hk).trans (hv k hk)

/-! ### Steps -/

/-- With the engine's turn next and `rst` released, a step runs what is fetched. -/
theorem step_engine {s : State} (hr : s.rst = false) (ht : s.nextTurn = .engine) :
    step s = match s.fetch with
      | none => .next s.popTurn
      | some (.ok i) => exec i s.popTurn
      | some (.error _) => runIllegal s.popTurn := by
  have hf : s.popTurn.fetch = s.fetch := rfl
  unfold step
  rw [ht]
  simp only [takeTurn, engineStep, State.popTurn_rst, hr, hf]
  rfl

theorem State.popTurn_of_nil {s : State} (h : s.agenda = []) : s.popTurn = s := by
  cases s; simp only at h; subst h; rfl

theorem State.nextTurn_of_nil {s : State} (h : s.agenda = []) : s.nextTurn = .engine := by
  unfold State.nextTurn; rw [h]; rfl

/-- Where something is fetched, PB is not IDLE (R23). -/
theorem State.seq_ne_idle_of_fetch {s : State} {x : Except DecodeError Instr} (h : s.fetch = some x) :
    s.seq ≠ .idle := by
  intro e; unfold State.fetch at h; rw [e] at h; cases h

/-- With the engine alone, a step is the engine's. -/
theorem step_engineAlone {s : State} (h : s.engineAlone) :
    step s = match s.fetch with
      | none => .next s
      | some (.ok i) => exec i s
      | some (.error _) => runIllegal s := by
  have := step_engine h.1 (State.nextTurn_of_nil h.2)
  rwa [State.popTurn_of_nil h.2] at this

@[simp] theorem runSteps_zero (s : State) : runSteps 0 s = .next s := rfl

/-- A run is one step and then the rest. -/
theorem runSteps_succ {n : Nat} {s t : State} (h : step s = .next t) : runSteps (n + 1) s = runSteps n t := by
  simp only [runSteps, h]

/-- Two runs in a row are one run. -/
theorem runSteps_add {m n : Nat} {s t : State} (h : runSteps m s = .next t) :
    runSteps (m + n) s = runSteps n t := by
  induction m generalizing s with
  | zero => cases h; rw [Nat.zero_add]
  | succ m ih =>
    rw [Nat.succ_add]
    simp only [runSteps] at h ⊢
    cases hs : step s with
    | next u => rw [hs] at h; exact ih h
    | fault r => rw [hs] at h; cases h
    | refused r => rw [hs] at h; cases h

/-! ### Transactions -/

/-- With an answer listed, a transaction takes it. -/
theorem State.transacted_of_cons {s : State} {a : Answer} {rest : List Answer} (t : Transaction)
    (h : s.answers = a :: rest) : s.transacted t = { s with port := s.port ++ [t], answers := rest } := by
  unfold State.transacted
  rw [h]
  rfl

theorem State.answer_of_cons {s : State} {a : Answer} {rest : List Answer} (h : s.answers = a :: rest) :
    s.answer = a := by
  unfold State.answer; rw [h]; rfl

/-- A clear or a write: the transaction is logged, its answer used up, and SEQ goes where the answer says (R79). -/
theorem State.transact_eq (s : State) (t : Transaction) (good bad : Seq) :
    s.transact t good bad = .next ((s.transacted t).goto (if answerErr s.answer = true then bad else good)) := rfl

/-- A clipped answer holds at most `n` bytes (R78). -/
theorem clipAnswer_length {n : Nat} {a : Answer} {bs : List Byte} (h : clipAnswer n a = .ok bs) : bs.length ≤ n := by
  cases a with
  | err => cases h
  | ok cs => cases h; simp [List.length_take]

/-! ### Decoding what was received -/

theorem exceptionFlag_iff (b : Byte) : exceptionFlag b = true ↔ 128 ≤ b.toNat := by
  revert b; decide

theorem byteAt_of_getElem? {f : List Byte} {i : Nat} {b : Byte} (h : f[i]? = some b) : byteAt f i = b := by
  simp [byteAt, List.getD, h]

/-- When all the bytes received are written, a decode is `mbDecode` of them (R154, R161). -/
theorem State.decodeRx_of_rxIs {s : State} {f : List Byte} (h : s.rxIs f) :
    s.decodeRx = some (mbDecode f, (mbDecodeCrc f).getD s.privCrc) := by
  have hf := State.rxBytes_eq_some_iff.2 h
  obtain ⟨hl, hh⟩ := h
  unfold State.decodeRx
  by_cases h0 : s.rxlen.toNat = 0
  · have : f = [] := List.length_eq_zero_iff.1 (by omega)
    subst this
    simp [h0, mbDecode, mbDecodeCrc]
  · rw [if_neg h0]
    by_cases h3 : s.rxlen.toNat < 3
    · rw [if_pos h3, hf]
    · rw [if_neg h3]
      have h1 := hh 1 (by omega)
      have h2 := hh 2 (by omega)
      simp only [Nat.zero_add] at h1 h2
      obtain ⟨echo, he⟩ : ∃ e, f[1]? = some e := ⟨_, List.getElem?_eq_getElem (by omega)⟩
      obtain ⟨code, hc⟩ : ∃ e, f[2]? = some e := ⟨_, List.getElem?_eq_getElem (by omega)⟩
      rw [h1, h2, he, hc]
      simp only
      by_cases hx : exceptionFlag echo = true
      · rw [if_pos hx]
        have hn0 : ¬ f.length = 0 := by omega
        have hn3 : 3 ≤ f.length := by omega
        have hn3' : ¬ f.length < 3 := by omega
        simp [mbDecode, mbDecodeCrc, byteAt_of_getElem? he, byteAt_of_getElem? hc, hx, hn0, hn3, hn3']
      · rw [if_neg hx, hf]

/-- A visible exception code decides a decode whatever the other bytes are (R154 step 2). -/
theorem State.decodeRx_of_rxException {s : State} {code : Byte} (h : s.rxException code) :
    s.decodeRx = some (.deviceException code, s.privCrc) := by
  obtain ⟨h3, echo, he, hx, hc⟩ := h
  unfold State.decodeRx
  rw [if_neg (by omega), if_neg (by omega), he, hc]
  simp only
  rw [if_pos ((exceptionFlag_iff echo).2 hx)]

/-- A decode meets an unwritten byte exactly when there is one and no exception code is visible before it. -/
theorem State.decodeRx_of_rxHole {s : State} (h : s.rxHole) (hx : ∀ code, ¬ s.rxException code) :
    s.decodeRx = none := by
  have hn := State.rxBytes_eq_none_iff.2 h
  have h0 : ¬ s.rxlen.toNat = 0 := by obtain ⟨k, hk, _⟩ := h; omega
  unfold State.decodeRx
  rw [if_neg h0]
  by_cases h3 : s.rxlen.toNat < 3
  · rw [if_pos h3, hn]
  · rw [if_neg h3]
    cases he : Memory.read s.rxbuf 1 with
    | none => rfl
    | some echo =>
      cases hc : Memory.read s.rxbuf 2 with
      | none => rfl
      | some code =>
        simp only
        by_cases hf : exceptionFlag echo = true
        · exact absurd ⟨by omega, echo, he, (exceptionFlag_iff echo).1 hf, hc⟩ (hx code)
        · rw [if_neg hf, hn]

/-- The end of MB_DECODE and MB_READ when the decode has a result. -/
theorem State.finishDecode_eq {s : State} {r : MbResult} {c : Half} (h : s.decodeRx = some (r, c)) :
    s.finishDecode = .next (State.finishMb { s with privCrc := c } r) := by
  unfold State.finishDecode; rw [h]

theorem State.finishDecode_fault {s : State} (h : s.decodeRx = none) :
    s.finishDecode = .fault (.uninitRead .rxbuf) := by
  unfold State.finishDecode; rw [h]

/-- The end of BMS_CHECK and BMS_XCHG when the bytes received are written. -/
theorem State.finishBms_eq {s : State} {f : List Byte} (h : s.rxIs f) :
    s.finishBms = .next (s.complete (bmsVerdict f)) := by
  unfold State.finishBms; rw [State.rxBytes_eq_some_iff.2 h]

theorem State.finishBms_fault {s : State} (h : s.rxHole) : s.finishBms = .fault (.uninitRead .rxbuf) := by
  unfold State.finishBms; rw [State.rxBytes_eq_none_iff.2 h]

/-- `complete` is `ended` with the code's number. -/
theorem State.complete_eq_ended (s : State) (r : ResultCode) : s.complete r = s.ended r.code := rfl

/-- Modbus registers come from pairs of payload bytes, half as many as there are bytes (R155). -/
theorem pairRegs_length (p : List Byte) : (pairRegs p).length = p.length / 2 := by
  induction p using pairRegs.induct with
  | case1 hi lo rest ih => simp only [pairRegs, List.length_cons, ih]; omega
  | case2 p h =>
    match p, h with
    | [], _ => rfl
    | [_], _ => simp [pairRegs]
    | a :: b :: rest, h => exact absurd rfl (h a b rest)

/-- Register `k` is bytes `2k` (high) and `2k+1` (low) of the payload (R155). -/
theorem pairRegs_getElem? (p : List Byte) :
    ∀ (k : Nat) (hi lo : Byte), p[2 * k]? = some hi → p[2 * k + 1]? = some lo → (pairRegs p)[k]? = some (hi ++ lo) := by
  induction p using pairRegs.induct with
  | case1 a b rest ih =>
    intro k hi lo h1 h2
    cases k with
    | zero => simp at h1 h2; subst h1; subst h2; simp [pairRegs]
    | succ k =>
      simp only [pairRegs, List.getElem?_cons_succ]
      apply ih
      · rw [← h1, show 2 * (k + 1) = 2 * k + 1 + 1 by omega]; simp
      · rw [← h2, show 2 * (k + 1) + 1 = 2 * k + 1 + 1 + 1 by omega]; simp
  | case2 p h =>
    match p, h with
    | [], _ => intro k hi lo h1; simp at h1
    | [x], _ =>
      intro k hi lo h1 h2
      simp at h2
    | a :: b :: rest, h => exact absurd rfl (h a b rest)

/-- A successful decode yields at most 127 registers (R5, R33). -/
theorem mbDecode_ok_length {f : List Byte} {regs : List Half} (h : mbDecode f = .ok regs) : regs.length ≤ 127 := by
  unfold mbDecode at h
  split at h
  · cases h
  split at h
  · cases h
  split at h
  · cases h
  split at h
  · cases h
  split at h
  · cases h
  cases h
  rw [pairRegs_length, List.length_take]
  have := (byteAt f 2).isLt
  omega

/-! ### The host register space -/

/-- The word an offset inside the window names. -/
theorem State.target_inside {s : State} {o : Nat} (h : o < 0x4000) :
    s.target (s.params.pbBase + o) = some (targetAt s.params.rxcap o) := by
  unfold State.target Config.windowSize
  rw [if_pos (by omega)]
  congr 2
  omega

/-- Offsets in one word name the same word (R62). -/
theorem targetAt_congr {c o o' : Nat} (h : o / 4 = o' / 4) : targetAt c o = targetAt c o' := by
  unfold targetAt; rw [h]

end Sys2Proof.Machine
end

