-- ==== Sys2Proof/Laws/Words.lean ====
section
/-!
SUPPORT. Bit fields and concatenations as arithmetic on numbers.
-/
namespace Sys2Proof

/-- A concatenation as a number, the high part first (R6). -/
theorem toNat_concat {m n : Nat} (x : BitVec m) (y : BitVec n) : (x ++ y).toNat = 2 ^ n * x.toNat + y.toNat := by
  rw [BitVec.toNat_append, ← Nat.shiftLeft_add_eq_or_of_lt y.isLt, Nat.shiftLeft_eq, Nat.mul_comm]

theorem opField_toNat (w : Word) : (opField w).toNat = w.toNat % 256 := by
  simp [opField, BitVec.extractLsb'_toNat]

theorem argField_toNat (w : Word) : (argField w).toNat = w.toNat / 256 % 256 := by
  simp [argField, BitVec.extractLsb'_toNat, Nat.shiftRight_eq_div_pow]

/-- An encoded command as a number (R90). -/
theorem encode_toNat (i : Instr) : (encode i).toNat = 256 * i.arg.toNat + i.opcode.toNat := by
  unfold encode
  rw [toNat_concat, toNat_concat]
  simp

/-- Four byte lanes as a number (R63). -/
theorem lanes_toNat (b0 b1 b2 b3 : Byte) :
    (b3 ++ b2 ++ b1 ++ b0 : BitVec 32).toNat =
      b0.toNat + 256 * b1.toNat + 65536 * b2.toNat + 16777216 * b3.toNat := by
  rw [toNat_concat, toNat_concat, toNat_concat]
  omega

/-- A word's four lanes put together again are the word. -/
theorem lanes_wordBytes (w : Word) :
    (w.extractLsb' 24 8 ++ w.extractLsb' 16 8 ++ w.extractLsb' 8 8 ++ w.extractLsb' 0 8 : BitVec 32) = w := by
  apply BitVec.eq_of_toNat_eq
  rw [lanes_toNat]
  simp only [BitVec.extractLsb'_toNat, Nat.shiftRight_eq_div_pow]
  have := w.isLt
  omega

/-- Decoding a word's lanes decodes the word and leaves what follows. -/
theorem decodeBytes_wordBytes (w : Word) (rest : List Byte) :
    decodeBytes (wordBytes w ++ rest) =
      match decode w with | .ok i => .ok (i, rest) | .error e => .error e := by
  simp only [wordBytes, List.cons_append, List.nil_append, decodeBytes]
  rw [lanes_wordBytes]
  all_goals cases decode w <;> rfl

/-- What a decoded word's fields are. -/
theorem decode_fields {w : Word} {i : Instr} (h : decode w = .ok i) :
    opField w = i.opcode ∧ i.arg = if opField w = 2#8 then argField w else 0#8 := by
  unfold decode at h
  split at h
  · rename_i j hj
    cases h
    unfold decodeOp at hj
    repeat' (split at hj; · cases hj; constructor <;> simp_all [Instr.opcode, Instr.arg])
    cases hj
  · cases h

namespace Machine

theorem lowHalf_toNat (v : Word) : (lowHalf v).toNat = v.toNat % 65536 := by
  simp [lowHalf, BitVec.extractLsb'_toNat]

theorem highHalf_toNat (v : Word) : (highHalf v).toNat = v.toNat / 65536 % 65536 := by
  simp [highHalf, BitVec.extractLsb'_toNat, Nat.shiftRight_eq_div_pow]

theorem wordByte0_toNat (v : Word) : (wordByte0 v).toNat = v.toNat % 256 := by
  simp [wordByte0, BitVec.extractLsb'_toNat]

theorem wordByte1_toNat (v : Word) : (wordByte1 v).toNat = v.toNat / 256 % 256 := by
  simp [wordByte1, BitVec.extractLsb'_toNat, Nat.shiftRight_eq_div_pow]

theorem lowByte_toNat (h : Half) : (lowByte h).toNat = h.toNat % 256 := by
  simp [lowByte, BitVec.extractLsb'_toNat]

theorem highByte_toNat (h : Half) : (highByte h).toNat = h.toNat / 256 := by
  have := h.isLt
  simp only [highByte, BitVec.extractLsb'_toNat, Nat.shiftRight_eq_div_pow]
  omega

/-- A 16-bit value is its low byte and 256 times its high byte. -/
theorem half_of_bytes (h : Half) : (lowByte h).toNat + 256 * (highByte h).toNat = h.toNat := by
  rw [lowByte_toNat, highByte_toNat]; omega

/-- STATUS as a number (R25). -/
theorem statusWord_toNat (s : State) :
    s.statusWord.toNat =
      s.busy.toNat + 2 * s.done.toNat + 4 * s.crcOk.toNat + 8 * s.ovr.toNat + 256 * s.result.toNat := by
  unfold State.statusWord
  rw [toNat_concat, toNat_concat, toNat_concat, toNat_concat, toNat_concat, toNat_concat]
  simp only [BitVec.toNat_ofBool, BitVec.toNat_ofNat]
  omega

end Machine
end Sys2Proof
end

