-- ==== Sys2Proof/Laws/Commands.lean ====
section
/-!
SUPPORT. What the command meanings are built from: which command an OP names, legal requests, the frames a build leaves
in TXBUF, and the engine steps of a running exchange.
-/
namespace Sys2Proof

theorem opField_of_mod {w : Word} {n : Nat} (hn : n < 256) (h : w.toNat % 256 = n) :
    opField w = BitVec.ofNat 8 n := by
  apply BitVec.eq_of_toNat_eq; rw [opField_toNat, h]; simp; omega

/-- A word is decoded by its OP, given as a number, where the command ignores ARG (R91, R92). -/
theorem decode_of_op {w : Word} {n : Nat} {i : Instr} (hn : n < 256) (h : w.toNat % 256 = n)
    (hd : ∀ a, decodeOp (BitVec.ofNat 8 n) a = some i) : decode w = .ok i := by
  unfold decode; rw [opField_of_mod hn h, hd]

namespace Machine

theorem mbLegal_iff (f : Byte) (c : Half) : mbLegal f c = true ↔ (f = 3#8 ∨ f = 4#8) ∧ c ≠ 0#16 := by
  simp [mbLegal]

theorem mbLegal_eq_false_iff (f : Byte) (c : Half) : mbLegal f c = false ↔ (f ≠ 3#8 ∧ f ≠ 4#8) ∨ c = 0#16 := by
  rw [← Bool.not_eq_true, mbLegal_iff]; tauto

theorem bmsLegal_iff (c : Byte) : bmsLegal c = true ↔ c ∈ [0x00#8, 0x27#8, 0x2D#8, 0x2E#8] := by
  simp [bmsLegal, or_assoc]

theorem mbRequest_length (a b : Byte) (c d : Half) : (mbRequest a b c d).length = 8 := rfl

theorem bmsHeader_length (c p : Byte) : (bmsHeader c p).length = 7 := rfl

/-- The length byte of a payload of PLEN bytes is PLEN (R202). -/
theorem ofNat_length_eq {p : List Byte} {b : Byte} (h : p.length = b.toNat) : BitVec.ofNat 8 p.length = b := by
  rw [h]; simp

/-- After a BMS build TXBUF holds the request around the payload (R202, R210). -/
theorem buildBms_holds {s : State} {p : List Byte} (hl : p.length = s.latch.plen.toNat)
    (hp : Holds s.txbuf 7 p) : Holds (s.buildBms p).txbuf 0 (bmsRequest s.latch.bcmd p) := by
  unfold bmsRequest
  rw [ofNat_length_eq hl]
  simp only [State.buildBms_txbuf]
  have hb := bmsHeader_length s.latch.bcmd s.latch.plen
  apply holds_append
  · apply holds_append
    · intro k hk
      rw [Memory.read_write_ne _ _ (by omega)]
      exact holds_writeRange _ _ _ k hk
    · intro k hk
      rw [hb, Memory.read_write_ne _ _ (by omega), read_writeRange_outside _ _ _ _ (.inr (by omega))]
      exact hp k hk
  · intro k hk
    have : k = 0 := by simp at hk; omega
    subst this
    rw [List.length_append, hb, hl, Nat.zero_add, Nat.add_zero, Memory.read_write_same]
    rfl

/-- A BMS build leaves TXBUF from 8 + PLEN on as it is. -/
theorem buildBms_frame {s : State} {p : List Byte} {k : Nat} (hk : 8 + s.latch.plen.toNat ≤ k) :
    Memory.read (s.buildBms p).txbuf k = Memory.read s.txbuf k := by
  simp only [State.buildBms_txbuf]
  have hb := bmsHeader_length s.latch.bcmd s.latch.plen
  rw [Memory.read_write_ne _ _ (by omega), read_writeRange_outside _ _ _ _ (.inr (by omega))]

/-- The bytes received are written exactly when they are some list. -/
theorem State.rxWritten_iff {s : State} : s.rxWritten ↔ ∃ f, s.rxIs f := by
  unfold State.rxWritten; rw [Option.isSome_iff_exists]; simp only [State.rxBytes_eq_some_iff]

/-- With the engine alone, a step inside MB_READ runs its program point. -/
theorem step_mbReadAt {s : State} {p : MbPos} (h : s.engineAlone) (hs : s.seq = .mbRead p) :
    step s = mbReadAt p s := by
  rw [step_engineAlone h]; simp only [State.fetch, hs, exec, execMbRead]

/-- With the engine alone, a step inside BMS_XCHG runs its program point. -/
theorem step_bmsXchgAt {s : State} {p : BmsPos} (h : s.engineAlone) (hs : s.seq = .bmsXchg p) :
    step s = bmsXchgAt p s := by
  rw [step_engineAlone h]; simp only [State.fetch, hs, exec, execBmsXchg]

/-- A decode either faults, or shows an exception code, or is `mbDecode` of the bytes received (R154, R161). -/
theorem State.decodeRx_cases (s : State) :
    s.decodeRx = none ∨ (∃ c, s.decodeRx = some (.deviceException c, s.privCrc)) ∨
      ∃ f, s.rxBytes = some f ∧ s.decodeRx = some (mbDecode f, (mbDecodeCrc f).getD s.privCrc) := by
  unfold State.decodeRx
  split
  · rename_i h
    exact .inr (.inr ⟨[], by unfold State.rxBytes; rw [h]; rfl, rfl⟩)
  · split
    · cases h : s.rxBytes with
      | none => simp
      | some f => exact .inr (.inr ⟨f, rfl, rfl⟩)
    · split
      · split
        · exact .inr (.inl ⟨_, rfl⟩)
        · cases h : s.rxBytes with
          | none => simp
          | some f => exact .inr (.inr ⟨f, rfl, rfl⟩)
      · exact .inl rfl

/-- A result code is at most 8 (R270). -/
theorem ResultCode.code_le (r : ResultCode) : r.code.toNat ≤ 8 := by cases r <;> decide

end Machine
end Sys2Proof
end

