-- ==== Sys2Proof/Laws/Crc.lean ====
section
/-!
SUPPORT. The CRC and checksum functions: injectivity of a CRC step, and what a change of one byte does to a frame.
-/
namespace Sys2Proof.Machine

/-- A shift of R120 loses nothing: the bit shifted out is bit 15 of the result. -/
theorem crcShift_injective {x y : Half} (h : crcShift x = crcShift y) : x = y := by
  have top : ∀ z : Half, (crcShift z).getLsbD 15 = z.getLsbD 0 := by
    intro z
    unfold crcShift
    split <;> rename_i hz
    · rw [hz]; simp
    · rw [Bool.not_eq_true] at hz; rw [hz]; simp
  have low : x.getLsbD 0 = y.getLsbD 0 := by rw [← top, ← top, h]
  have high : x >>> 1 = y >>> 1 := by
    unfold crcShift at h
    rw [low] at h
    split at h
    · exact (BitVec.xor_left_inj _).1 h
    · exact h
  apply BitVec.eq_of_getLsbD_eq
  intro i _
  cases i with
  | zero => exact low
  | succ i =>
    have := congrArg (fun v => BitVec.getLsbD v i) high
    simpa [BitVec.getLsbD_ushiftRight, Nat.add_comm] using this

theorem crcShifts_injective {x y : Half}
    (h : crcShift (crcShift (crcShift (crcShift (crcShift (crcShift (crcShift (crcShift x))))))) =
      crcShift (crcShift (crcShift (crcShift (crcShift (crcShift (crcShift (crcShift y)))))))) : x = y :=
  crcShift_injective (crcShift_injective (crcShift_injective (crcShift_injective
    (crcShift_injective (crcShift_injective (crcShift_injective (crcShift_injective h)))))))

/-- Different CRC values stay different when the same byte is folded in. -/
theorem crcStep_injective_left {x y : Half} {b : Byte} (h : crcStep x b = crcStep y b) : x = y :=
  (BitVec.xor_left_inj _).1 (crcShifts_injective h)

/-- Different bytes folded into one CRC value give different values. -/
theorem crcStep_injective_right {x : Half} {a b : Byte} (h : crcStep x a = crcStep x b) : a = b := by
  have := congrArg BitVec.toNat ((BitVec.xor_right_inj _).1 (crcShifts_injective h))
  apply BitVec.eq_of_toNat_eq
  have ha := a.isLt
  have hb := b.isLt
  simp only [BitVec.toNat_setWidth] at this
  omega

theorem foldl_crcStep_injective (s : List Byte) :
    ∀ {x y : Half}, s.foldl crcStep x = s.foldl crcStep y → x = y := by
  induction s with
  | nil => intro x y h; exact h
  | cons b s ih => intro x y h; exact crcStep_injective_left (ih h)

/-- Byte `j` of a frame of which another byte is changed. -/
theorem byteAt_set_ne {f : List Byte} {i j : Nat} {y : Byte} (h : i ≠ j) : byteAt (f.set i y) j = byteAt f j := by
  simp [byteAt, h]

theorem byteAt_set_same {f : List Byte} {i : Nat} {y : Byte} (h : i < f.length) : byteAt (f.set i y) i = y := by
  simp [byteAt, h]

/-- A frame that verifies has at least three bytes (R122). -/
theorem length_of_verifyCrc16 {f : List Byte} (h : verifyCrc16 f = true) : 3 ≤ f.length := by
  unfold verifyCrc16 at h
  split at h
  · cases h
  · omega

/-- Whether a body with two bytes appended verifies (R122). -/
theorem verifyCrc16_append (s : List Byte) (lo hi : Byte) (h : s ≠ []) :
    verifyCrc16 (s ++ [lo, hi]) = (lowByte (crc16 s) == lo && highByte (crc16 s) == hi) := by
  have hl : 0 < s.length := List.length_pos_iff.2 h
  have e : s.length + 1 + 1 - 1 - s.length = 1 := by omega
  simp [verifyCrc16, crcBytesMatch, bodyCrc, byteAt]
  intro h'
  omega

theorem ofNat_toNat_eq_lowByte (h : Half) : BitVec.ofNat 8 h.toNat = lowByte h := by
  apply BitVec.eq_of_toNat_eq; rw [lowByte_toNat]; simp

theorem ofNat_toNat_eq_highByte (h : Half) : BitVec.ofNat 8 (h.toNat / 256) = highByte h := by
  apply BitVec.eq_of_toNat_eq; rw [highByte_toNat]; have := h.isLt; simp; omega

/-- Changing one byte changes the exact sum by the difference (R200). -/
theorem sum_toNat_set (s : List Byte) : ∀ (i : Nat) (x y : Byte), s[i]? = some x →
    ((s.set i y).map BitVec.toNat).sum + x.toNat = (s.map BitVec.toNat).sum + y.toNat := by
  induction s with
  | nil => intro i x y h; simp at h
  | cons b s ih =>
    intro i x y h
    cases i with
    | zero => simp at h; subst h; simp; omega
    | succ i =>
      have := ih i x y (by simpa using h)
      simp only [List.set_cons_succ, List.map_cons, List.sum_cons]
      omega

end Sys2Proof.Machine
end

