-- ==== Sys2Proof/Laws/Host.lean ====
section
/-!
SUPPORT. The host's side: which word an offset names, and what a step does on a host turn.
-/
namespace Sys2Proof.Machine

/-- The parameters' ranges as inequalities (R5). -/
theorem params_bounds {p : Params} (h : p.wf = true) :
    16 ≤ p.rxcap ∧ p.rxcap ≤ 1024 ∧ 1 ≤ p.chunkMax ∧ p.chunkMax ≤ 1024 := by
  unfold Params.wf at h; simpa [and_assoc] using h

/-- A step with a turn listed takes that turn. -/
theorem step_cons {s : State} {t : Turn} {rest : List Turn} (h : s.agenda = t :: rest) :
    step s = takeTurn t { s with agenda := rest } := by
  unfold step State.nextTurn State.popTurn; rw [h]; rfl

/-- A host write inside the window. -/
theorem step_write {s : State} {o : Nat} {v : Word} {rest : List Turn} (ho : o < 0x4000)
    (h : s.agenda = .write .word (s.params.pbBase + o) v :: rest) :
    step s = .next (State.writeTarget { s with agenda := rest } v (targetAt s.params.rxcap o)) := by
  rw [step_cons h]
  have := State.target_inside (s := { s with agenda := rest }) ho
  simp only [takeTurn, hostWrite]
  simp only at this
  rw [this]

/-- A host read inside the window. -/
theorem step_read {s : State} {o : Nat} {rest : List Turn} (ho : o < 0x4000)
    (h : s.agenda = .read .word (s.params.pbBase + o) :: rest) :
    step s = match s.readTarget (targetAt s.params.rxcap o) with
      | .error e => .fault e
      | .ok v => .next { s with agenda := rest, rdata := s.rdata ++ [v] } := by
  rw [step_cons h]
  have := State.target_inside (s := { s with agenda := rest }) ho
  simp only [takeTurn, hostRead]
  simp only at this
  rw [this]
  rfl

theorem targetAt_low {c o k : Nat} (h : o / 4 = k) (hk : k < 12) : targetAt c o = registerAt k := by
  unfold targetAt; rw [h, if_pos (by omega)]

theorem targetAt_tx {c o i : Nat} (hi : i < 512) (h : o / 4 = 0x100 + i) : targetAt c o = .tx i := by
  unfold targetAt; rw [h, if_neg (by omega), if_pos (by omega), Nat.add_sub_cancel_left]

theorem targetAt_rx {c o i : Nat} (hc : c ≤ 1024) (hi : i < c) (h : o / 4 = 0x400 + i) : targetAt c o = .rx i := by
  unfold targetAt
  rw [h, if_neg (by omega), if_neg (by omega), if_neg (by omega), if_pos (by omega), if_pos (by omega),
    Nat.add_sub_cancel_left]

theorem targetAt_reg {c o i : Nat} (hi : i < 128) (h : o / 4 = 0x800 + i) : targetAt c o = .reg i := by
  unfold targetAt
  rw [h, if_neg (by omega), if_neg (by omega), if_neg (by omega), if_neg (by omega), if_pos (by omega),
    Nat.add_sub_cancel_left]

/-- The map of R60, whole: a register word, an entry of one of the arrays, or a reserved word. -/
theorem targetAt_cases (c o : Nat) (hc : c ≤ 1024) :
    o / 4 < 12 ∨
    (∃ i, i < 512 ∧ o / 4 = 0x100 + i ∧ targetAt c o = .tx i) ∨
    (∃ i, i < c ∧ o / 4 = 0x400 + i ∧ targetAt c o = .rx i) ∨
    (∃ i, i < 128 ∧ o / 4 = 0x800 + i ∧ targetAt c o = .reg i) ∨
    (targetAt c o = .reserved ∧ 12 ≤ o / 4 ∧
      (o / 4 < 0x100 ∨ 0x300 ≤ o / 4 ∧ o / 4 < 0x400 ∨ (0x400 + c ≤ o / 4 ∧ o / 4 < 0x800) ∨ 0x880 ≤ o / 4)) := by
  by_cases h1 : o / 4 < 12
  · exact .inl h1
  by_cases h2 : o / 4 < 0x100
  · refine .inr (.inr (.inr (.inr ⟨?_, by omega, by omega⟩)))
    unfold targetAt
    rw [if_pos h2]
    unfold registerAt
    split <;> first | omega | rfl
  by_cases h3 : o / 4 < 0x300
  · exact .inr (.inl ⟨o / 4 - 0x100, by omega, by omega, targetAt_tx (by omega) (by omega)⟩)
  by_cases h4 : o / 4 < 0x400
  · refine .inr (.inr (.inr (.inr ⟨?_, by omega, by omega⟩)))
    unfold targetAt
    rw [if_neg (by omega), if_neg (by omega), if_pos (by omega)]
  by_cases h5 : o / 4 < 0x400 + c
  · exact .inr (.inr (.inl ⟨o / 4 - 0x400, by omega, by omega, targetAt_rx hc (by omega) (by omega)⟩))
  by_cases h6 : o / 4 < 0x800
  · refine .inr (.inr (.inr (.inr ⟨?_, by omega, by omega⟩)))
    unfold targetAt
    rw [if_neg (by omega), if_neg (by omega), if_neg (by omega), if_pos (by omega), if_neg (by omega)]
  by_cases h7 : o / 4 < 0x880
  · exact .inr (.inr (.inr (.inl ⟨o / 4 - 0x800, by omega, by omega, targetAt_reg (by omega) (by omega)⟩)))
  · refine .inr (.inr (.inr (.inr ⟨?_, by omega, by omega⟩)))
    unfold targetAt
    rw [if_neg (by omega), if_neg (by omega), if_neg (by omega), if_neg (by omega), if_neg (by omega)]

/-- Where in the window a writable word lies, for any RXCAP (R60). -/
def Target.liesAt (c k : Nat) : Target → Prop
  | .cmd => k = 0
  | .crc => k = 2
  | .mbAddr => k = 4
  | .mbRange => k = 5
  | .bmsCfg => k = 6
  | .txlen => k = 7
  | .rxlen => k = 8
  | .tx i => i < 512 ∧ k = 0x100 + i
  | .rx i => i < c ∧ k = 0x400 + i
  | _ => True

/-- The word an offset names lies at that offset. -/
theorem targetAt_liesAt (c o : Nat) : (targetAt c o).liesAt c (o / 4) := by
  unfold targetAt
  split
  · generalize o / 4 = k
    unfold registerAt
    split <;> first | rfl | trivial
  · split
    · exact ⟨by omega, by omega⟩
    · split
      · trivial
      · split
        · split
          · exact ⟨by omega, by omega⟩
          · trivial
        · split <;> trivial

/-- A word that is neither STATUS nor reserved sets OVR when the busy gate drops a write to it (R250). -/
theorem writeGated_of_target {c o : Nat} (ho : o < 0x4000) (h1 : targetAt c o ≠ .status)
    (h2 : targetAt c o ≠ .reserved) : writeGated c o = true := by
  have hk : ∀ k, 12 ≤ k → registerAt k = .reserved := by
    intro k hk
    unfold registerAt
    split <;> first | omega | rfl
  unfold targetAt at h1 h2
  unfold writeGated
  simp only [Bool.and_eq_true, Bool.or_eq_true, decide_eq_true_eq]
  by_cases h : o / 4 < 0x100
  · rw [if_pos h] at h1 h2
    have : o / 4 < 12 := by
      by_contra hc
      exact h2 (hk _ (by omega))
    exact ⟨fun e => h1 (by rw [e]; rfl), by omega⟩
  · rw [if_neg h] at h2
    refine ⟨by omega, ?_⟩
    repeat' (split at h2)
    all_goals first | omega | exact absurd rfl h2

/-- A clamped length is at most the cap (R31, R32). -/
theorem clampLength_le (v : Word) {n : Nat} (hn : n ≤ 1024) : (clampLength v n).toNat ≤ n := by
  unfold clampLength; rw [BitVec.toNat_ofNat]; omega

end Sys2Proof.Machine
end

