-- ==== Sys2Proof/Laws/PerInstr.lean ====
section
/-!
SUPPORT. What holds of every command as syntax, one lemma per constructor.
-/
namespace Sys2Proof.Laws.CanonicalEncoding

/-- A well-formed command's word is canonical, carries the command's OP, and is decoded as that command (R90 to R92). -/
def Statement (i : Instr) : Prop :=
  i.wf = true ∧ canonicalWord (encode i) = true ∧ opField (encode i) = i.opcode ∧
    decodeOp i.opcode i.arg = some i

theorem crcInit : Statement .crcInit := ⟨rfl, rfl, rfl, rfl⟩
theorem crcByte (arg : Byte) : Statement (.crcByte arg) := by
  revert arg; unfold Statement; decide
theorem crcTx : Statement .crcTx := ⟨rfl, rfl, rfl, rfl⟩
theorem crcChk : Statement .crcChk := ⟨rfl, rfl, rfl, rfl⟩
theorem mbBuild : Statement .mbBuild := ⟨rfl, rfl, rfl, rfl⟩
theorem mbDecode : Statement .mbDecode := ⟨rfl, rfl, rfl, rfl⟩
theorem mbRead : Statement .mbRead := ⟨rfl, rfl, rfl, rfl⟩
theorem bmsBuild : Statement .bmsBuild := ⟨rfl, rfl, rfl, rfl⟩
theorem bmsCheck : Statement .bmsCheck := ⟨rfl, rfl, rfl, rfl⟩
theorem bmsXchg : Statement .bmsXchg := ⟨rfl, rfl, rfl, rfl⟩
theorem clrStatus : Statement .clrStatus := ⟨rfl, rfl, rfl, rfl⟩

end Sys2Proof.Laws.CanonicalEncoding
end

