-- ==== Sys2Proof/Laws/Reset.lean ====
section
/-!
SUPPORT. The arrays of the machine after power-on reset are in canonical form, with nothing written (R41, R301).
-/
namespace Sys2Proof.Machine

theorem reset_txbuf_wf : Memory.wf Config.txcap State.reset.txbuf = true := rfl

theorem reset_rxbuf_wf : Memory.wf State.reset.params.rxcap State.reset.rxbuf = true := rfl

theorem reset_regs_wf : Memory.wf Config.regcap State.reset.regs = true := rfl

theorem reset_read_none (i : Nat) :
    Memory.read State.reset.txbuf i = none ∧ Memory.read State.reset.rxbuf i = none ∧
      Memory.read State.reset.regs i = none := ⟨rfl, rfl, rfl⟩

end Sys2Proof.Machine
end

