-- ==== Sys2Proof/Tests/Slice0.lean ====
section
/-!
SUPPORT. Tests of the model: the checks of WellFormed, a decoded word for every command, one-step tests with the values
of spec/95_test_vectors.md (each names its vector), and, for each statement with hypotheses, a state and operands that
meet them.
-/
namespace Sys2Proof.Tests
open Sys2Proof.Machine

/-- Bytes from numbers. -/
def bytes (l : List Nat) : List Byte := l.map (BitVec.ofNat 8)

/-- A field of the next state, none where the step stops. -/
def after {α : Type} (f : State → α) : StepResult → Option α
  | .next t => some (f t)
  | .fault _ => none
  | .refused _ => none

/-- The reset state with bytes in TXBUF from 0 on. -/
def tx (l : List Nat) : State :=
  { State.reset with txbuf := Memory.writeRange [] 0 (bytes l), txlen := BitVec.ofNat 16 l.length }

/-- The reset state with bytes received. -/
def rx (l : List Nat) : State :=
  { State.reset with rxbuf := Memory.writeRange [] 0 (bytes l), rxlen := BitVec.ofNat 16 l.length }

/-- The reset state with Modbus operands latched. -/
def mb (slave func start count : Nat) : State :=
  { State.reset with latch := { Latch.reset with
      slave := BitVec.ofNat 8 slave, func := BitVec.ofNat 8 func
      start := BitVec.ofNat 16 start, count := BitVec.ofNat 16 count } }

/-- The reset state with BMS operands latched and a payload in TXBUF from 7 on. -/
def bms (cmd : Nat) (payload : List Nat) : State :=
  { State.reset with
    latch := { Latch.reset with bcmd := BitVec.ofNat 8 cmd, plen := BitVec.ofNat 8 payload.length }
    txbuf := Memory.writeRange [] 7 (bytes payload) }

/-- A busy machine whose sequencer is at `q`. -/
def at_ (s : State) (q : Seq) : State := { s with busy := true, seq := q }

/-- A machine with RXCAP = 16 and PB_BASE = 0x4000. -/
def small : State :=
  { State.reset with params := { rxcap := 16, chunkMax := 1, pbBase := 0x4000 } }

/-- `s` with a host write of `v` to offset `o` next. -/
def writing (s : State) (o : Nat) (v : Word) : State := { s with agenda := [.write .word (s.params.pbBase + o) v] }

/-- `s` with a host read of offset `o` next. -/
def reading (s : State) (o : Nat) : State := { s with agenda := [.read .word (s.params.pbBase + o)] }

/-! ### WellFormed refuses -/

theorem test_canonicalWord_refuses_high_bits : canonicalWord 0x00010001#32 = false := by decide
theorem test_canonicalWord_refuses_ignored_arg : canonicalWord 0x00000110#32 = false := by decide
theorem test_canonicalWord_accepts_arg_of_crcByte : canonicalWord 0x0000FF02#32 = true := by decide
theorem test_params_refuses_rxcap_15 : Params.wf { rxcap := 15, chunkMax := 1, pbBase := 0 } = false := by decide
theorem test_params_refuses_rxcap_1025 : Params.wf { rxcap := 1025, chunkMax := 1, pbBase := 0 } = false := by decide
theorem test_params_refuses_chunkMax_0 : Params.wf { rxcap := 16, chunkMax := 0, pbBase := 0 } = false := by decide
theorem test_params_refuses_chunkMax_1025 : Params.wf { rxcap := 16, chunkMax := 1025, pbBase := 0 } = false := by
  decide
theorem test_instr_wf : Instr.wf (.crcByte 0xFF#8) = true := by decide

/-! ### Decoding: words written out from R90 to R93 -/

theorem test_decode_crcInit : decode 0x00000001#32 = .ok .crcInit := rfl
theorem test_decode_crcByte : decode 0xABCD0102#32 = .ok (.crcByte 0x01#8) := rfl
theorem test_decode_crcTx : decode 0x00000003#32 = .ok .crcTx := rfl
theorem test_decode_crcChk : decode 0x00000004#32 = .ok .crcChk := rfl
theorem test_decode_mbBuild : decode 0x00000010#32 = .ok .mbBuild := rfl
theorem test_decode_mbDecode : decode 0x00000011#32 = .ok .mbDecode := rfl
theorem test_decode_mbRead : decode 0x00000012#32 = .ok .mbRead := rfl
theorem test_decode_bmsBuild : decode 0x00000020#32 = .ok .bmsBuild := rfl
theorem test_decode_bmsCheck : decode 0x00000021#32 = .ok .bmsCheck := rfl
theorem test_decode_bmsXchg : decode 0xFFFFFF22#32 = .ok .bmsXchg := rfl
theorem test_decode_clrStatus : decode 0x000000F0#32 = .ok .clrStatus := rfl
theorem test_decode_illegal_00 : decode 0x00000000#32 = .error (.illegalOp 0x00#8) := rfl
theorem test_decode_illegal_13 : decode 0x00000013#32 = .error (.illegalOp 0x13#8) := rfl
theorem test_decodeBytes_lanes :
    decodeBytes [0x02#8, 0x31#8, 0x00#8, 0x00#8, 0xEE#8] = .ok (.crcByte 0x31#8, [0xEE#8]) := rfl
theorem test_decodeBytes_truncated : decodeBytes [0x01#8, 0x00#8, 0x00#8] = .error (.truncated 3) := rfl
theorem test_decodeTableWord : decodeTableWord 32 0x3102 = some (.crcByte 0x31#8) := rfl

/-! ### CRC commands (95 section 2.1) -/

/-- CRC-V07. -/
theorem test_crcStep : crcStep 0x1234#16 0x56#8 = 0xE993#16 := by decide
/-- CRC-V19: the CRC bytes in the wrong order. -/
theorem test_verifyCrc16_order : verifyCrc16 (bytes [0x00, 0x40, 0xBF]) = false := by decide
/-- CRC-V30. -/
theorem test_crcInit : after (fun t => (t.crc, t.statusWord)) (exec .crcInit { State.reset with crc := 0x1234#16 }) =
    some (0xFFFF#16, 0x2#32) := by decide
/-- CRC-V32. -/
theorem test_crcByte : after State.crc (exec (.crcByte 0x03#8) { State.reset with crc := 0x807E#16 }) =
    some 0x2140#16 := by decide
/-- CRC-V34. -/
theorem test_crcTx : after (fun t => (t.crc, t.txlen)) (exec .crcTx (tx [0x01, 0x03, 0x00, 0x00, 0x00, 0x01])) =
    some (0x0A84#16, 6#16) := by decide +kernel
/-- CRC-V36. -/
theorem test_crcChk_ok : after (fun t => (t.crc, t.statusWord))
    (exec .crcChk (rx [0x01, 0x04, 0x02, 0x12, 0x34, 0xB4, 0x47])) = some (0x47B4#16, 0x6#32) := by decide +kernel
/-- CRC-V39: two bytes leave CRC unchanged. -/
theorem test_crcChk_short : after (fun t => (t.crc, t.statusWord))
    (exec .crcChk { rx [0x01, 0x7E] with crc := 0x1234#16 }) = some (0x1234#16, 0x302#32) := by decide

/-! ### Modbus commands (95 sections 2.2 to 2.4) -/

/-- MB-B06. -/
theorem test_mbBuild : after (fun t => (t.txBytes, t.statusWord)) (exec .mbBuild (mb 0x11 0x03 0x006B 0x0003)) =
    some (some (bytes [0x11, 0x03, 0x00, 0x6B, 0x00, 0x03, 0x76, 0x87]), 0x2#32) := by decide +kernel
/-- MB-B10. -/
theorem test_mbBuild_badRequest : after (fun t => (t.txlen, t.statusWord)) (exec .mbBuild (mb 0x01 0x06 0 1)) =
    some (0#16, 0x602#32) := by decide
/-- MB-V14: the odd payload byte is dropped. -/
theorem test_mbDecode_odd : after (fun t => (t.regcnt, Memory.read t.regs 0, Memory.read t.regs 1, t.statusWord))
    (exec .mbDecode (rx [0x01, 0x03, 0x03, 0xAB, 0xCD, 0xEF, 0x21, 0x72])) =
    some (1#16, some 0xABCD#16, none, 0x2#32) := by decide +kernel
/-- MB-V05: an exception response is reported before its CRC is checked. -/
theorem test_mbDecode_exception : after (fun t => (t.regcnt, t.exc, t.statusWord))
    (exec .mbDecode (rx [0x01, 0x84, 0x02, 0x00, 0x00])) = some (0#16, 0x02#8, 0x202#32) := by decide
/-- MR-V09: 510 registers do not fit RXCAP = 1024. -/
theorem test_mbRead_capacity : after (fun t => (t.port, t.txlen, t.statusWord))
    (exec .mbRead (at_ (mb 0x01 0x03 0 510) (.start 0x12#32))) = some ([], 0#16, 0x602#32) := by decide
/-- MR-V14: the read asks for 7 bytes and hands on no more. -/
theorem test_mbRead_clips : after (fun t => (t.port, t.seq))
    (exec .mbRead { at_ (mb 0x01 0x03 0 1) (.mbRead .read) with
      answers := [.ok (bytes [0x01, 0x03, 0x02, 0x00, 0x0A, 0x38, 0x43, 0x55])] }) =
    some ([.read 7 .mbTimeout],
      .mbRead (.got (.ok (bytes [0x01, 0x03, 0x02, 0x00, 0x0A, 0x38, 0x43])))) := by decide

/-! ### BMS commands (95 sections 2.5 and 2.6) -/

/-- BMS-V09. -/
theorem test_bmsBuild : after (fun t => (t.txBytes, t.statusWord)) (exec .bmsBuild (bms 0x00 [0xAA, 0x55])) =
    some (some (bytes [0x3D, 0x01, 0x02, 0x00, 0x01, 0x00, 0x02, 0xAA, 0x55, 0x42]), 0x2#32) := by decide
/-- BMS-V13. -/
theorem test_bmsBuild_unwritten :
    exec .bmsBuild { bms 0x00 [] with latch := { Latch.reset with plen := 1#8 } } = .fault (.uninitRead .txbuf) := rfl
/-- BMS-C04. -/
theorem test_bmsCheck_ok : after State.statusWord
    (exec .bmsCheck (rx [0x3D, 0x01, 0x02, 0x27, 0x02, 0x00, 0x01, 0x04, 0x6E])) = some 0x2#32 := by decide
/-- BMS-C03. -/
theorem test_bmsCheck_invalid : after State.statusWord (exec .bmsCheck (rx [0x01])) = some 0x502#32 := by decide
/-- BX-V06: an empty drain read stops the schedule. -/
theorem test_bmsXchg_stops : after (fun t => (t.chunks, t.seq))
    (exec .bmsXchg { at_ (rx [0x3D, 0x01, 0x02, 0x27]) (.bmsXchg (.got .d1 (.ok []))) with chunks := 1#3 }) =
    some (2#3, .bmsXchg .closeIn) := by decide
/-- BX-V12: a full buffer ends the schedule without a drain read. -/
theorem test_bmsXchg_full : after (fun t => (t.rxlen, t.chunks, t.seq))
    (exec .bmsXchg { at_ small (.bmsXchg (.got .first (.ok (List.replicate 16 0x11#8)))) with chunks := 0#3 }) =
    some (16#16, 1#3, .bmsXchg .closeIn) := by decide

/-! ### Control and the host interface (95 section 2.7) -/

/-- CTL-V05. -/
theorem test_clrStatus : after State.statusWord (exec .clrStatus
    { State.reset with result := 6#4, ovr := true, done := true, busy := true, seq := .start 0xF0#32 }) =
    some 0#32 := by decide
/-- CTL-V01. -/
theorem test_illegal : after State.statusWord (step (State.reset.withFetchWord 32 0x13)) = some 0x802#32 := by decide
/-- CTL-V07. -/
theorem test_rxlen_clamp : after State.rxlen (step (writing State.reset 0x020 0x00012345#32)) = some 1024#16 := by
  decide
/-- CTL-V11. -/
theorem test_param : after State.rdata (step (reading State.reset 0x02C)) = some [0x02000400#32] := by decide
/-- CTL-V15: a write to EXC while BUSY sets OVR. -/
theorem test_busy_exc : after State.ovr (step (writing (at_ State.reset (.start 1#32)) 0x00C 0#32)) = some true := by
  decide
/-- CTL-V19. -/
theorem test_unaligned_write : after State.crc (step (writing State.reset 0x009 0x0000BEEF#32)) =
    some 0xBEEF#16 := by decide
/-- CTL-V20. -/
theorem test_uninit_read : step (reading State.reset 0x1014) = .fault (.uninitRead .rxbuf) := rfl
/-- CTL-V22: past RXCAP a word of the receive window is reserved. -/
theorem test_reserved_read : after State.rdata (step (reading small 0x1040)) = some [0#32] := by decide

/-! ### Hypotheses that are met: the command word -/

theorem witness_encodeOfDecode : decode 0xFFFF5502#32 = .ok (.crcByte 0x55#8) ∧
    decode 0xFFFF5503#32 = .ok .crcTx := ⟨rfl, rfl⟩
theorem witness_decodeIgnoresReservedBits :
    (0xABCD0102#32 &&& 0xFF#32 = 0x00000102#32 &&& 0xFF#32 ∧
      0xABCD0102#32 &&& 0xFF00#32 = 0x00000102#32 &&& 0xFF00#32) ∧
    (0xFFFF5501#32 &&& 0xFF#32 = 0x00000001#32 &&& 0xFF#32 ∧ ¬ (0xFFFF5501#32 &&& 0xFF#32 = 2#32)) := by decide
theorem witness_illegalOp : (0xF0#32 : Word).toNat % 256 = 0xF0 ∧
    ((0x00#32 : Word).toNat % 256 ∉ [0x01, 0x02, 0x03, 0x04, 0x10, 0x11, 0x12, 0x20, 0x21, 0x22, 0xF0] ∧
      (0xFF#32 : Word).toNat % 256 ∉ [0x01, 0x02, 0x03, 0x04, 0x10, 0x11, 0x12, 0x20, 0x21, 0x22, 0xF0]) ∧
    (∀ w, (at_ State.reset (.start w)).rst = false ∧ (at_ State.reset (.start w)).nextTurn = .engine ∧
      (at_ State.reset (.start w)).seq = .start w) := ⟨by decide, by decide, fun _ => ⟨rfl, rfl, rfl⟩⟩

/-! ### Hypotheses that are met: steps, the host, the reset input -/

theorem witness_stepRunsDecodedCommand :
    ((at_ State.reset (.start 0x3102#32)).rst = false ∧ (at_ State.reset (.start 0x3102#32)).nextTurn = .engine ∧
      decode 0x3102#32 = .ok (.crcByte 0x31#8)) ∧
    ((at_ (mb 1 3 0 1) (.mbRead .read)).rst = false ∧ (at_ (mb 1 3 0 1) (.mbRead .read)).nextTurn = .engine) ∧
    ((at_ (bms 0 []) (.bmsXchg .settle)).rst = false ∧ (at_ (bms 0 []) (.bmsXchg .settle)).nextTurn = .engine) ∧
    decodeTableWord 32 0xF0 = some .clrStatus := ⟨⟨rfl, rfl, rfl⟩, ⟨rfl, rfl⟩, ⟨rfl, rfl⟩, rfl⟩

/-- A CMD write at the first and the last byte address of the word, for a command that latches and one that does not. -/
theorem witness_cmdWriteStartsCommand : (0 < 4 ∧ 3 < 4) ∧
    (0x12#32 : Word).toNat % 256 ∈ [0x10, 0x12, 0x20, 0x22] ∧ (0x01#32 : Word).toNat % 256 ∉ [0x10, 0x12, 0x20, 0x22] ∧
    ∀ k v, (writing small k v).rst = false ∧ (writing small k v).busy = false ∧
      (writing small k v).agenda = [.write .word ((writing small k v).params.pbBase + k) v] :=
  ⟨by decide, by decide, by decide, fun _ _ => ⟨rfl, rfl, rfl⟩⟩

/-- The busy gate at offsets that set OVR and at offsets that do not, to both ends of the window. -/
theorem witness_busyGate : ∀ o ∈ [0x000, 0x004, 0x02F, 0x030, 0xBFF, 0xC00, 0x103F, 0x1040, 0x21FF, 0x2200, 0x3FFF],
    o < 0x4000 ∧ (writing (at_ small (.start 1#32)) o 0#32).params.wf = true ∧
      (writing (at_ small (.start 1#32)) o 0#32).rst = false ∧
      (writing (at_ small (.start 1#32)) o 0#32).busy = true ∧
      (writing (at_ small (.start 1#32)) o 0#32).agenda =
        [.write .word ((writing (at_ small (.start 1#32)) o 0#32).params.pbBase + o) 0#32] := by decide
theorem witness_busyGate_read : (reading small 4).agenda = [.read .word 0x4004] := rfl

/-- A write with BUSY = 0 at each clause's offsets, first and last: the state meets the common hypotheses. -/
theorem witness_idleHostWrites :
    (∀ o ∈ [0x008, 0x013, 0x014, 0x01B, 0x01C, 0x023, 0x400, 0xBFF, 0x1000, 0x103F, 0x004, 0x3FFF],
      o < 0x4000 ∧ (writing small o 0x0FFF0FFF#32).params.wf = true ∧ (writing small o 0x0FFF0FFF#32).rst = false ∧
        (writing small o 0x0FFF0FFF#32).busy = false ∧ (writing small o 0x0FFF0FFF#32).agenda =
          [.write .word ((writing small o 0x0FFF0FFF#32).params.pbBase + o) 0x0FFF0FFF#32]) ∧
    (0x008 / 4 = 2 ∧ 0x013 / 4 = 4 ∧ 0x014 / 4 = 5 ∧ 0x01B / 4 = 6 ∧ 0x01C / 4 = 7 ∧ 0x023 / 4 = 8) ∧
    (0x400 / 4 = 0x100 + 0 ∧ 0xBFF / 4 = 0x100 + 511 ∧ 0x1000 / 4 = 0x400 + 0 ∧
      (15 < small.params.rxcap ∧ 0x103F / 4 = 0x400 + 15)) ∧
    (writable small.params.rxcap 0x004 = false ∧ writable small.params.rxcap 0x1040 = false ∧
      writable small.params.rxcap 0x2000 = false ∧ writable small.params.rxcap 0x3FFF = false) := by decide

/-- A read at each clause's offset. -/
theorem witness_hostReadsRegisters :
    (∀ o ∈ [0x000, 0x007, 0x008, 0x00F, 0x010, 0x014, 0x018, 0x01C, 0x020, 0x024, 0x028, 0x02F, 0x030, 0x3FFF],
      o < 0x4000 ∧ (reading small o).params.wf = true ∧
        (reading small o).agenda = [.read .word ((reading small o).params.pbBase + o)]) ∧
    (∀ k ∈ [0, 1, 2, 3, 4, 5, 6, 7, 8, 9, 10, 11], (4 * k + 3) / 4 = k) ∧
    (∀ o ∈ [0x030, 0x3FC, 0xC00, 0xFFF, 0x1040, 0x1FFF, 0x2200, 0x3FFF],
      writeGated small.params.rxcap o = false ∧ o / 4 ≠ 1) := by decide

/-- A written and an unwritten entry of each array, at both ends. -/
theorem witness_hostReadsOfArrayEntries :
    (small.params.wf = true ∧ ∀ o ∈ [0x400, 0xBFF, 0x1000, 0x103F, 0x2000, 0x21FF],
      (reading small o).agenda = [.read .word ((reading small o).params.pbBase + o)]) ∧
    (0x400 / 4 = 0x100 + 0 ∧ 0xBFF / 4 = 0x100 + 511 ∧ 0x103F / 4 = 0x400 + 15 ∧ 15 < small.params.rxcap ∧
      0x2000 / 4 = 0x800 + 0 ∧ 0x21FF / 4 = 0x800 + 127) ∧
    (Memory.read (tx [7]).txbuf 0 = some 7#8 ∧ Memory.read small.txbuf 511 = none) ∧
    (Memory.read (rx [7]).rxbuf 0 = some 7#8 ∧ Memory.read small.rxbuf 15 = none) ∧
    (Memory.read { small with regs := [(126, 0x1234#16)] }.regs 126 = some 0x1234#16 ∧
      Memory.read small.regs 127 = none) := by decide

theorem witness_hostReadHasNoSideEffect :
    (∃ t, step (reading small 0x008) = .next t) ∧
    (∃ t, runSteps 2 { small with agenda := [.read .word 0x4008, .read .word 0x4008] } = .next t) :=
  ⟨⟨_, rfl⟩, ⟨_, rfl⟩⟩

theorem witness_accessWidth :
    (AccessWidth.byte ≠ .word ∧ AccessWidth.half ≠ .word) ∧ 0x3FFF < 0x4000 ∧ (0 : Nat) < 0x4000 ∧
    ({ small with agenda := [.read .byte 0x4000] } : State).agenda = [.read .byte 0x4000] ∧
    ({ small with agenda := [.write .half 0x4000 0#32] } : State).agenda = [.write .half 0x4000 0#32] := by
  decide

theorem witness_resetInput :
    ({ small with agenda := [.rst true] } : State).agenda = [.rst true] ∧
    ((writing { small with rst := true } 0x3FFF 1#32).rst = true ∧
      (writing { small with rst := true } 0x3FFF 1#32).agenda =
        [.write .word ((writing { small with rst := true } 0x3FFF 1#32).params.pbBase + 0x3FFF) 1#32]) ∧
    ({ small with rst := true, agenda := [.engine] } : State).agenda = [.engine] := by decide

theorem witness_idleMachineStays : State.reset.agenda = [] ∧ State.reset.seq = .idle := ⟨rfl, rfl⟩

/-! ### Hypotheses that are met: the invariant -/

/-- A running command in the invariant: MB_READ before its read. -/
theorem witness_inv_running : (at_ (mb 1 3 0 5) (.mbRead .read)).Inv where
  params := by decide
  busy_iff := by decide
  done_idle := by decide
  rst_idle := by decide
  result_le := by decide
  txlen_le := by decide
  rxlen_le := by decide
  regcnt_le := by decide
  chunks_le := by decide
  txbuf_wf := by decide
  rxbuf_wf := by decide
  regs_wf := by decide
  seq_ok := ⟨by decide, by decide⟩

theorem witness_stepKeepsInvariant :
    (at_ (mb 1 3 0 5) (.mbRead .read)).Inv ∧ ∃ t, step (at_ (mb 1 3 0 5) (.mbRead .read)) = .next t :=
  ⟨witness_inv_running, ⟨_, rfl⟩⟩

theorem witness_everyCommandCompletes :
    (at_ (mb 1 3 0 5) (.mbRead .read)).Inv ∧ (at_ (mb 1 3 0 5) (.mbRead .read)).engineAlone ∧
      (at_ (mb 1 3 0 5) (.mbRead .read)).seq ≠ .idle := ⟨witness_inv_running, ⟨rfl, rfl⟩, by decide⟩

/-! ### Hypotheses that are met: CRC commands -/

theorem witness_crcRoundTrip : bytes [0x01] ≠ [] := by decide
theorem witness_crcSingleBitFlip :
    verifyCrc16 (bytes [0x01, 0x7E, 0x80]) = true ∧ (bytes [0x01, 0x7E, 0x80])[0]? = some 0x01#8 ∧
      (bytes [0x01, 0x7E, 0x80])[2]? = some 0x80#8 ∧ 7 < 8 := by decide
/-- Each command's OP, with the ignored bits set. -/
theorem witness_opcodes : ∀ n ∈ [0x01, 0x02, 0x03, 0x04, 0x10, 0x11, 0x12, 0x20, 0x21, 0x22, 0xF0],
    (BitVec.ofNat 32 (0xFFFFFF00 + n)).toNat % 256 = n := by decide
theorem witness_crcTx :
    ((bytes [0x01, 0x03]).length = (tx [0x01, 0x03]).txlen.toNat ∧ Holds (tx [0x01, 0x03]).txbuf 0 (bytes [0x01, 0x03])) ∧
    (∃ k, k < ({ tx [0x01] with txlen := 512#16 } : State).txlen.toNat ∧
      Memory.read ({ tx [0x01] with txlen := 512#16 } : State).txbuf k = none) :=
  ⟨⟨by decide, by unfold Holds; decide⟩, ⟨511, by decide, by decide⟩⟩

/-- Received frames of each kind the CRC and decode statements speak of. -/
theorem rxIs_rx_7 : (rx [0x01, 0x04, 0x02, 0x12, 0x34, 0xB4, 0x47]).rxIs
    (bytes [0x01, 0x04, 0x02, 0x12, 0x34] ++ [0xB4#8, 0x47#8]) := ⟨by decide, by unfold Holds; decide⟩
theorem rxIs_rx_bad : (rx [0x01, 0x04, 0x02, 0x12, 0x34, 0xB4, 0x46]).rxIs
    (bytes [0x01, 0x04, 0x02, 0x12, 0x34] ++ [0xB4#8, 0x46#8]) := ⟨by decide, by unfold Holds; decide⟩
theorem rxIs_rx_2 : (rx [0x01, 0x7E]).rxIs (bytes [0x01, 0x7E]) := ⟨by decide, by unfold Holds; decide⟩
theorem rxHole_5 : ({ rx [1, 2, 3, 4] with rxlen := 5#16 } : State).rxHole := ⟨4, by decide, by decide⟩

theorem witness_crcChk :
    ((rx [0x01, 0x7E]).rxIs (bytes [0x01, 0x7E]) ∧ (bytes [0x01, 0x7E]).length < 3) ∧
    ((rx [0x01, 0x04, 0x02, 0x12, 0x34, 0xB4, 0x47]).rxIs (bytes [0x01, 0x04, 0x02, 0x12, 0x34] ++ [0xB4#8, 0x47#8]) ∧
      bytes [0x01, 0x04, 0x02, 0x12, 0x34] ≠ [] ∧
      (0xB4#8).toNat + 256 * (0x47#8).toNat = (crc16 (bytes [0x01, 0x04, 0x02, 0x12, 0x34])).toNat) ∧
    ((rx [0x01, 0x04, 0x02, 0x12, 0x34, 0xB4, 0x46]).rxIs (bytes [0x01, 0x04, 0x02, 0x12, 0x34] ++ [0xB4#8, 0x46#8]) ∧
      (0xB4#8).toNat + 256 * (0x46#8).toNat ≠ (crc16 (bytes [0x01, 0x04, 0x02, 0x12, 0x34])).toNat) ∧
    ({ rx [1, 2, 3, 4] with rxlen := 5#16 } : State).rxHole :=
  ⟨⟨rxIs_rx_2, by decide +kernel⟩, ⟨rxIs_rx_7, by decide +kernel, by decide +kernel⟩, ⟨rxIs_rx_bad, by decide +kernel⟩, rxHole_5⟩

/-! ### Hypotheses that are met: Modbus commands -/

theorem witness_mbBuild :
    (∀ f ∈ [3, 4], ((mb 0 f 0 0xFFFF).latch.func = 3#8 ∨ (mb 0 f 0 0xFFFF).latch.func = 4#8) ∧
      (mb 0 f 0 0xFFFF).latch.count ≠ 0#16) ∧
    ((mb 1 6 0 1).latch.func ≠ 3#8 ∧ (mb 1 6 0 1).latch.func ≠ 4#8) ∧ (mb 1 3 0 0).latch.count = 0#16 := by decide

/-- No exception code is visible where byte 1 has bit 7 clear. -/
theorem noException {s : State} (h : Memory.read s.rxbuf 1 = some 0x03#8) : ∀ code, ¬ s.rxException code := by
  rintro code ⟨_, echo, he, hx, _⟩
  rw [h] at he
  cases he
  exact absurd hx (by decide)

/-- The clauses of MB_DECODE: silence, an exception, each later step of R154, and an unwritten byte. -/
theorem witness_mbDecode :
    (rx []).rxlen = 0#16 ∧
    (rx [0x01, 0x84, 0x02]).rxException 0x02#8 ∧
    ((rx [0x01, 0x03]).rxIs (bytes [0x01, 0x03]) ∧ bytes [0x01, 0x03] ≠ [] ∧
      (∀ code, ¬ (rx [0x01, 0x03]).rxException code) ∧ verifyCrc16 (bytes [0x01, 0x03]) = false) ∧
    ((rx [0x01, 0x03, 0x40, 0x21]).rxIs (bytes [0x01, 0x03, 0x40, 0x21]) ∧
      (∀ code, ¬ (rx [0x01, 0x03, 0x40, 0x21]).rxException code) ∧
      verifyCrc16 (bytes [0x01, 0x03, 0x40, 0x21]) = true ∧ (bytes [0x01, 0x03, 0x40, 0x21]).length < 5) ∧
    ((rx [0x01, 0x03, 0x04, 0x11, 0x22, 0xD4, 0x0C]).rxIs (bytes [0x01, 0x03, 0x04, 0x11, 0x22, 0xD4, 0x0C]) ∧
      (∀ code, ¬ (rx [0x01, 0x03, 0x04, 0x11, 0x22, 0xD4, 0x0C]).rxException code) ∧
      verifyCrc16 (bytes [0x01, 0x03, 0x04, 0x11, 0x22, 0xD4, 0x0C]) = true ∧
      (bytes [0x01, 0x03, 0x04, 0x11, 0x22, 0xD4, 0x0C])[2]? = some 0x04#8 ∧ 7 < 5 + (0x04#8).toNat) ∧
    ((rx [0x01, 0x03, 0x02, 0x00, 0x0A, 0x38, 0x43]).rxIs (bytes [0x01, 0x03, 0x02, 0x00, 0x0A, 0x38, 0x43]) ∧
      (∀ code, ¬ (rx [0x01, 0x03, 0x02, 0x00, 0x0A, 0x38, 0x43]).rxException code) ∧
      verifyCrc16 (bytes [0x01, 0x03, 0x02, 0x00, 0x0A, 0x38, 0x43]) = true ∧
      (bytes [0x01, 0x03, 0x02, 0x00, 0x0A, 0x38, 0x43])[2]? = some 0x02#8 ∧ 5 + (0x02#8).toNat ≤ 7) ∧
    (({ rx [1, 3, 2, 0] with rxlen := 5#16 } : State).rxHole ∧
      ∀ code, ¬ ({ rx [1, 3, 2, 0] with rxlen := 5#16 } : State).rxException code) :=
  ⟨rfl, ⟨by decide, 0x84#8, by decide, by decide, by decide⟩,
    ⟨⟨by decide, by unfold Holds; decide⟩, by decide, noException rfl, by decide⟩,
    ⟨⟨by decide +kernel, by unfold Holds; decide⟩, noException rfl, by decide +kernel, by decide +kernel⟩,
    ⟨⟨by decide +kernel, by unfold Holds; decide⟩, noException rfl, by decide +kernel, by decide +kernel, by decide +kernel⟩,
    ⟨⟨by decide +kernel, by unfold Holds; decide⟩, noException rfl, by decide +kernel, by decide +kernel, by decide +kernel⟩,
    ⟨4, by decide, by decide⟩, noException rfl⟩

/-- Two machines that agree in the bytes received and differ elsewhere; both decodes complete. -/
theorem witness_decodeDependsOnlyOnReceivedBytes :
    (rx [0x01]).rxlen = ({ rx [0x01] with count := 7#16 } : State).rxlen ∧
    (∀ k, k < (rx [0x01]).rxlen.toNat →
      Memory.read (rx [0x01]).rxbuf k = Memory.read ({ rx [0x01] with count := 7#16 } : State).rxbuf k) ∧
    (∃ t, exec .mbDecode (rx [0x01]) = .next t) ∧ (∃ t, exec .bmsCheck (rx [0x01]) = .next t) ∧
    (∃ e, exec .mbDecode { State.reset with rxlen := 1#16 } = .fault e) ∧
    (∃ e, exec .bmsCheck { State.reset with rxlen := 1#16 } = .fault e) :=
  ⟨rfl, fun _ _ => rfl, ⟨_, rfl⟩, ⟨_, rfl⟩, ⟨_, rfl⟩, ⟨_, rfl⟩⟩

/-- A refused MB_READ for each reason, the capacity one just past the largest that fits. -/
theorem witness_mbReadRefuses :
    ((at_ (mb 1 6 0 1) (.start 0x12#32)).seq = .start 0x12#32 ∧
      (at_ (mb 1 6 0 1) (.start 0x12#32)).latch.func ≠ 3#8 ∧ (at_ (mb 1 6 0 1) (.start 0x12#32)).latch.func ≠ 4#8) ∧
    (at_ (mb 1 3 0 0) (.start 0x12#32)).latch.count = 0#16 ∧
    (at_ (mb 1 3 0 510) (.start 0x12#32)).params.rxcap <
      3 + 2 * (at_ (mb 1 3 0 510) (.start 0x12#32)).latch.count.toNat + 2 := by decide

/-- An admitted MB_READ, with the most registers that fit. -/
theorem witness_mbReadBuild :
    (at_ (mb 1 3 0 509) (.start 0x12#32)).seq = .start 0x12#32 ∧
    ((at_ (mb 1 3 0 509) (.start 0x12#32)).latch.func = 3#8 ∨ (at_ (mb 1 3 0 509) (.start 0x12#32)).latch.func = 4#8) ∧
    (at_ (mb 1 3 0 509) (.start 0x12#32)).latch.count ≠ 0#16 ∧
    3 + 2 * (at_ (mb 1 3 0 509) (.start 0x12#32)).latch.count.toNat + 2 ≤
      (at_ (mb 1 3 0 509) (.start 0x12#32)).params.rxcap := by decide

/-- MR-V01's answers, before the first engine step of the command. -/
def mrV01 : State :=
  { at_ (mb 0x01 0x04 0x304E 0x0002) (.start 0x12#32) with
    answers := [.ok [], .ok [], .ok [], .ok (bytes [0x01, 0x04, 0x04, 0x07, 0xA8, 0x02, 0x42, 0xFA, 0x41]), .ok []] }

theorem witness_mbReadExchangeSteps :
    (∀ p ∈ [MbPos.clearIn (bytes [1]), .clearOut (bytes [1]), .write (bytes [1]), .read, .closeIn],
      ({ mrV01 with answers := [.ok [1#8]], seq := .mbRead p } : State).answers = [.ok [1#8]] ∧
        ({ mrV01 with answers := [.ok [1#8]], seq := .mbRead p } : State).seq = .mbRead p) ∧
    ({ mrV01 with seq := .mbRead (.got (.ok [1#8])) } : State).seq = .mbRead (.got (.ok [1#8])) ∧
    ({ mrV01 with seq := .mbRead .finish } : State).seq = .mbRead .finish := by decide

theorem witness_mbReadWholeExchange :
    mrV01.engineAlone ∧ mrV01.params.wf = true ∧ mrV01.seq = .start 0x12#32 ∧ decode 0x12#32 = .ok .mbRead ∧
    (mrV01.latch.func = 3#8 ∨ mrV01.latch.func = 4#8) ∧ mrV01.latch.count ≠ 0#16 ∧
    3 + 2 * mrV01.latch.count.toNat + 2 ≤ mrV01.params.rxcap ∧
    mrV01.answers = .ok [] :: .ok [] :: .ok [] ::
      .ok (bytes [0x01, 0x04, 0x04, 0x07, 0xA8, 0x02, 0x42, 0xFA, 0x41]) :: .ok [] :: [] ∧
    mbDecode ((bytes [0x01, 0x04, 0x04, 0x07, 0xA8, 0x02, 0x42, 0xFA, 0x41]).take
      (3 + 2 * mrV01.latch.count.toNat + 2)) = .ok [0x07A8#16, 0x0242#16] :=
  ⟨⟨rfl, rfl⟩, rfl, rfl, rfl, .inr rfl, by decide +kernel, by decide +kernel, rfl, by decide +kernel⟩

theorem witness_mbReadTransportError :
    ∀ p ∈ [MbPos.clearIn (bytes [1]), .clearOut (bytes [1]), .write (bytes [1]), .read, .closeIn],
      ({ mrV01 with answers := [.err], seq := .mbRead p } : State).rst = false ∧
      ({ mrV01 with answers := [.err], seq := .mbRead p } : State).agenda = [] ∧
      ({ mrV01 with answers := [.err], seq := .mbRead p } : State).answers = [.err] ∧
      ({ mrV01 with answers := [.err], seq := .mbRead p } : State).seq = .mbRead p := by decide

/-! ### Hypotheses that are met: BMS commands -/

theorem witness_checksumLaws : verifySum8 (bytes [0xFF, 0xFF, 0xFE]) = true ∧
    (bytes [0xFF, 0xFF, 0xFE])[2]? = some 0xFE#8 ∧ 0x00#8 ≠ 0xFE#8 ∧ verifySum8 [0x00#8] = true := by decide

theorem witness_bmsBuild :
    ((bms 0x2E [0xAA, 0x55]).latch.bcmd = 0x2E#8 ∧
      (bytes [0xAA, 0x55]).length = (bms 0x2E [0xAA, 0x55]).latch.plen.toNat ∧
      Holds (bms 0x2E [0xAA, 0x55]).txbuf 7 (bytes [0xAA, 0x55])) ∧
    (bms 0x01 []).latch.bcmd ∉ [0x00#8, 0x27#8, 0x2D#8, 0x2E#8] ∧
    ((bms 0x00 []).latch.bcmd ∈ [0x00#8, 0x27#8, 0x2D#8, 0x2E#8] ∧
      ∃ k, k < ({ bms 0x00 [] with latch := { Latch.reset with plen := 255#8 } } : State).latch.plen.toNat ∧
        Memory.read ({ bms 0x00 [] with latch := { Latch.reset with plen := 255#8 } } : State).txbuf (7 + k) = none) :=
  ⟨⟨by decide, by decide, by unfold Holds; decide⟩, by decide, by decide, ⟨254, by decide, by decide⟩⟩

theorem witness_bmsCheck :
    (rx []).rxlen = 0#16 ∧
    ((rx [0x00]).rxIs ([] ++ [0x00#8]) ∧ (([] : List Byte).map BitVec.toNat).sum % 256 = (0x00#8).toNat) ∧
    ((rx [0x01]).rxIs ([] ++ [0x01#8]) ∧ (([] : List Byte).map BitVec.toNat).sum % 256 ≠ (0x01#8).toNat) ∧
    ({ rx [1, 2, 3, 4] with rxlen := 5#16 } : State).rxHole :=
  ⟨rfl, ⟨⟨by decide, by unfold Holds; decide⟩, by decide⟩, ⟨⟨by decide, by unfold Holds; decide⟩, by decide⟩, rxHole_5⟩

theorem witness_bmsXchgBuild :
    ((at_ (bms 0x2E [1]) (.start 0x22#32)).seq = .start 0x22#32 ∧
      (at_ (bms 0x2E [1]) (.start 0x22#32)).latch.bcmd ∈ [0x00#8, 0x27#8, 0x2D#8, 0x2E#8] ∧
      (bytes [1]).length = (at_ (bms 0x2E [1]) (.start 0x22#32)).latch.plen.toNat ∧
      Holds (at_ (bms 0x2E [1]) (.start 0x22#32)).txbuf 7 (bytes [1])) ∧
    (at_ (bms 0x28 []) (.start 0x22#32)).latch.bcmd ∉ [0x00#8, 0x27#8, 0x2D#8, 0x2E#8] ∧
    (∃ k, k < ({ at_ (bms 0x00 []) (.start 0x22#32) with
          latch := { Latch.reset with plen := 1#8 } } : State).latch.plen.toNat ∧
      Memory.read ({ at_ (bms 0x00 []) (.start 0x22#32) with
          latch := { Latch.reset with plen := 1#8 } } : State).txbuf (7 + k) = none) :=
  ⟨⟨by decide, by decide, by decide, by unfold Holds; decide⟩, by decide, ⟨0, by decide, by decide⟩⟩

theorem witness_bmsXchgExchangeSteps :
    (∀ p ∈ [BmsPos.clearIn (bytes [1]), .clearOut (bytes [1]), .write (bytes [1]), .read .first, .read .d3, .closeIn],
      ({ at_ (bms 0 []) (.bmsXchg p) with answers := [.ok [1#8]] } : State).answers = [.ok [1#8]] ∧
        ({ at_ (bms 0 []) (.bmsXchg p) with answers := [.ok [1#8]] } : State).seq = .bmsXchg p) ∧
    (∀ p ∈ [BmsPos.settle, .drainWait .d1, .finish], (at_ (bms 0 []) (.bmsXchg p)).seq = .bmsXchg p) := by decide

/-- The schedule at its corners: an empty drain read, the read that fills RXBUF, the one that leaves a byte of room. -/
theorem witness_bmsReceiveSchedule :
    small.params.wf = true ∧
    ((at_ small (.bmsXchg (.got .d1 (.ok [])))).rxlen.toNat + ([] : List Byte).length ≤ small.params.rxcap ∧
      ReadIx.d1 ≠ .first) ∧
    (∀ n ∈ [15, 16], (at_ small (.bmsXchg (.got .first (.ok (List.replicate n 1#8))))).rxlen.toNat +
      (List.replicate n 1#8).length ≤ small.params.rxcap) ∧
    (∀ ix ∈ [ReadIx.d1, .d2, .d3], ix ≠ .first ∧ [1#8] ≠ [] ∧
      (at_ small (.bmsXchg (.got ix (.ok [1#8])))).seq = .bmsXchg (.got ix (.ok [1#8]))) := by decide

/-- BX-V02's answers, before the first engine step of the command. -/
def bxV02 : State :=
  { at_ (bms 0x27 []) (.start 0x22#32) with
    answers := [.ok [], .ok [], .ok [], .ok (bytes [0x3D, 0x01, 0x02, 0x27]),
      .ok (bytes [0x02, 0x00, 0x01, 0x04, 0x6E]), .ok [], .ok []] }

theorem witness_bmsXchgReassemblesChunks :
    bxV02.engineAlone ∧ bxV02.params.wf = true ∧ bxV02.seq = .start 0x22#32 ∧ decode 0x22#32 = .ok .bmsXchg ∧
    bxV02.latch.bcmd ∈ [0x00#8, 0x27#8, 0x2D#8, 0x2E#8] ∧ ([] : List Byte).length = bxV02.latch.plen.toNat ∧
    Holds bxV02.txbuf 7 ([] : List Byte) ∧ [bytes [0x02, 0x00, 0x01, 0x04, 0x6E]].length ≤ 3 ∧
    (∀ c ∈ [bytes [0x02, 0x00, 0x01, 0x04, 0x6E]], c ≠ []) ∧
    (∀ c ∈ [bytes [0x3D, 0x01, 0x02, 0x27], bytes [0x02, 0x00, 0x01, 0x04, 0x6E]],
      c.length ≤ bxV02.params.chunkMax) ∧
    (bytes [0x3D, 0x01, 0x02, 0x27] ++ [bytes [0x02, 0x00, 0x01, 0x04, 0x6E]].flatten).length < bxV02.params.rxcap ∧
    bxV02.answers = .ok [] :: .ok [] :: .ok [] :: .ok (bytes [0x3D, 0x01, 0x02, 0x27]) ::
      ([bytes [0x02, 0x00, 0x01, 0x04, 0x6E]].map Answer.ok ++
        (if [bytes [0x02, 0x00, 0x01, 0x04, 0x6E]].length < 3 then [.ok []] else []) ++ .ok [] :: []) :=
  ⟨⟨rfl, rfl⟩, rfl, rfl, rfl, by decide, by decide, fun k hk => absurd hk (Nat.not_lt_zero k), by decide, by decide,
    by decide, by decide, rfl⟩

theorem witness_bmsXchgTransportError :
    ∀ p ∈ [BmsPos.clearIn (bytes [1]), .clearOut (bytes [1]), .write (bytes [1]), .closeIn, .read .first, .read .d3],
      ({ bxV02 with answers := [.err], seq := .bmsXchg p } : State).rst = false ∧
      ({ bxV02 with answers := [.err], seq := .bmsXchg p } : State).agenda = [] ∧
      ({ bxV02 with answers := [.err], seq := .bmsXchg p } : State).answers = [.err] ∧
      ({ bxV02 with answers := [.err], seq := .bmsXchg p } : State).seq = .bmsXchg p := by decide

/-! ### Hypotheses that are met: the whole machine -/

theorem witness_clrStatus : ∃ t, exec .clrStatus State.reset = .next t := ⟨_, rfl⟩

/-- A step that changes CRC by a host write, and steps by the engine that change each of the other outputs. -/
theorem witness_onlyTheirOwners :
    after State.crc (step (writing State.reset 0x008 0x1234#32)) = some 0x1234#16 ∧
    after State.crc (step (at_ State.reset (.start 0x0102#32))) = some 0x807E#16 ∧
    after State.exc (step (at_ (rx [0x01, 0x84, 0x02]) (.start 0x11#32))) = some 0x02#8 ∧
    after State.chunks (step (at_ State.reset (.bmsXchg (.got .first (.ok []))))) = some 1#3 ∧
    after State.crcOk (step (at_ (rx [0x01, 0x7E, 0x80]) (.start 0x04#32))) = some true ∧
    after State.ovr (step { at_ State.reset (.start 0xF0#32) with ovr := true }) = some false ∧
    (at_ State.reset (.start 0xF0#32)).nextTurn ≠ .rst true := by decide

/-- Steps that change the outputs of the other clauses: the flags and RESULT at a command's end and start, OVR by a
dropped write, the latches, the transmit side by a build step, the receive side by a read, and a transaction. -/
theorem witness_onlyTheirOwners_more :
    after (fun t => (t.result, t.done, t.busy, t.seq)) (step (at_ (rx [0x01]) (.start 0x21#32))) =
      some (5#4, true, false, .idle) ∧
    after (fun t => (t.done, t.busy)) (step { writing State.reset 0x000 0x10#32 with done := true }) =
      some (false, true) ∧
    after State.done (step { at_ State.reset (.start 0xF0#32) with done := true }) = some false ∧
    after State.ovr (step { writing State.reset 0x000 0x10#32 with busy := true }) = some true ∧
    after (fun t => t.latch.func) (step { writing State.reset 0x000 0x10#32 with func := 3#8 }) = some 3#8 ∧
    after (fun t => (t.txlen, t.port, t.privCrc == 0#16)) (step (at_ (mb 1 3 0 5) (.start 0x12#32))) =
      some (8#16, [], false) ∧
    after (fun t => (t.rxlen, t.rxbuf)) (step (at_ (mb 1 3 0 5) (.mbRead (.got (.ok [7#8]))))) =
      some (1#16, [(0, 7#8)]) ∧
    after (fun t => (t.port, t.answers)) (step { at_ (mb 1 3 0 5) (.mbRead .closeIn) with answers := [.err] }) =
      some ([.clearIn], []) := by decide +kernel

/-- A step that ends a command, one that does not, and one that faults. -/
theorem witness_flagsDoNotSteer : (∃ t, exec .bmsCheck (rx [0x00]) = .next t ∧ t.seq = .idle) ∧
    (∃ t, exec .mbRead { mrV01 with seq := .mbRead .read } = .next t ∧ t.seq ≠ .idle) ∧
    (∃ e, exec .crcTx { State.reset with txlen := 1#16 } = .fault e) :=
  ⟨⟨_, rfl, rfl⟩, ⟨_, rfl, nofun⟩, ⟨_, rfl⟩⟩

theorem witness_readAnswersAreBounded :
    (∃ t, exec .mbRead { mrV01 with seq := .mbRead .read, answers := [.ok [7#8]] } = .next t ∧
      t.seq = .mbRead (.got (.ok [7#8]))) ∧
    (∃ t, exec .bmsXchg { bxV02 with seq := .bmsXchg (.read .d3), answers := [.ok [7#8]] } = .next t ∧
      t.seq = .bmsXchg (.got .d3 (.ok [7#8]))) := ⟨⟨_, rfl, rfl⟩, ⟨_, rfl, rfl⟩⟩

theorem witness_arrayRange : Memory.wf 512 ([(0, 1#8), (511, 2#8)] : Memory 8) = true ∧ 511 + [1#8].length ≤ 512 ∧
    Memory.wf 128 ([(0, 1#16), (126, 2#16)] : Memory 16) = true ∧ 126 + [3#16, 4#16].length ≤ 128 := by
  decide

theorem witness_loadRx : ∀ bs ∈ [bytes [1, 2, 3], List.replicate 16 0xFF#8, []],
    small.params.wf = true ∧ small.rst = false ∧ small.busy = false ∧ bs.length ≤ small.params.rxcap ∧
      ({ small with agenda := Stmt.turns small.params.pbBase (.loadrx bs) } : State).agenda =
        Stmt.turns small.params.pbBase (.loadrx bs) ++ [] := by decide

end Sys2Proof.Tests
end

/-!
PROOFS. The family of spec/00_scope.md: the arrays (O47), what a step runs (O6), the engine steps of the two exchanges
(O31, O38), and the invariant (O17).
-/
namespace Sys2Proof.Machine

/-! ### The data arrays -/

/-- Settles O47: the laws of the arrays, for every width. -/
theorem arrayRangeWriteThenRead : Obligations.ArrayRangeWriteThenRead := by
  refine ⟨fun width m base vs => ⟨?_, ?_, ?_⟩, ?_⟩
  · exact holds_writeRange m base vs
  · exact fun k hk => read_writeRange_outside m base k vs hk
  · exact fun size hsize hm => Memory.wf_writeRange vs m base hsize hm
  · exact fun width size m m' hm hm' h => Memory.ext_of_wf hm hm' h

/-! ### What an engine step runs -/

/-- On the engine's turn, with `rst` released, the command that is fetched makes its step. -/
theorem step_of_fetch {s : State} {i : Instr} (hr : s.rst = false) (ht : s.nextTurn = .engine)
    (hf : s.fetch = some (.ok i)) : step s = exec i s.popTurn := by
  rw [step_engine hr ht, hf]

theorem State.fetch_of_start {s : State} {w : Word} (h : s.seq = .start w) : s.fetch = some (decode w) := by
  simp only [State.fetch, h]

theorem State.fetch_of_mbRead {s : State} {p : MbPos} (h : s.seq = .mbRead p) : s.fetch = some (.ok .mbRead) := by
  simp only [State.fetch, h]

theorem State.fetch_of_bmsXchg {s : State} {p : BmsPos} (h : s.seq = .bmsXchg p) :
    s.fetch = some (.ok .bmsXchg) := by
  simp only [State.fetch, h]

/-- The byte lanes of a table row's word decode as the word itself (R63, R90). -/
theorem decode_of_decodeTableWord {n w : Nat} {i : Instr} (h : decodeTableWord n w = some i) :
    decode (BitVec.ofNat 32 (w % 2 ^ n)) = .ok i := by
  have lanes := decodeBytes_wordBytes (BitVec.ofNat 32 (w % 2 ^ n)) []
  rw [List.append_nil] at lanes
  unfold decodeTableWord at h
  rw [lanes] at h
  cases hd : decode (BitVec.ofNat 32 (w % 2 ^ n)) with
  | error e => rw [hd] at h; cases h
  | ok j => rw [hd] at h; cases h; rfl

/-- After `withCommand` the engine moves next, whatever the agenda was (log 9). -/
theorem State.withCommand_nextTurn (s : State) (v : Word) : (s.withCommand v).nextTurn = .engine := by
  unfold State.nextTurn State.withCommand
  cases s.agenda <;> rfl

/-- Settles O6. -/
theorem stepRunsDecodedCommand : Obligations.StepRunsDecodedCommand := by
  refine ⟨?_, ?_, ?_, ?_⟩
  · intro s w i hr ht hs hd
    exact step_of_fetch hr ht (by rw [State.fetch_of_start hs, hd])
  · intro s p hr ht hs
    exact step_of_fetch hr ht (State.fetch_of_mbRead hs)
  · intro s p hr ht hs
    exact step_of_fetch hr ht (State.fetch_of_bmsXchg hs)
  · intro s n w i hd
    have hs : (s.withFetchWord n w).seq = .start (BitVec.ofNat 32 (w % 2 ^ n)) := rfl
    exact step_of_fetch rfl (State.withCommand_nextTurn s _)
      (by rw [State.fetch_of_start hs, decode_of_decodeTableWord hd])

/-! ### One engine step of a running exchange -/

theorem exec_mbRead_at {s : State} {p : MbPos} (h : s.seq = .mbRead p) : exec .mbRead s = mbReadAt p s := by
  simp only [exec, execMbRead, h]

theorem exec_bmsXchg_at {s : State} {p : BmsPos} (h : s.seq = .bmsXchg p) : exec .bmsXchg s = bmsXchgAt p s := by
  simp only [exec, execBmsXchg, h]

/-- An answered transaction after which the sequencer moves. -/
theorem State.transacted_goto_of_cons {s : State} {a : Answer} {rest : List Answer} (t : Transaction) (q : Seq)
    (h : s.answers = a :: rest) :
    (s.transacted t).goto q = { s with port := s.port ++ [t], answers := rest, seq := q } := by
  rw [State.transacted_of_cons t h]
  rfl

/-- A clear or a write answered Ok (R79). -/
theorem State.transact_of_ok {s : State} {a : List Byte} {rest : List Answer} (t : Transaction) (good bad : Seq)
    (h : s.answers = .ok a :: rest) :
    s.transact t good bad = .next { s with port := s.port ++ [t], answers := rest, seq := good } := by
  rw [State.transact_eq, State.answer_of_cons h, State.transacted_goto_of_cons t _ h]
  rfl

/-- MB_READ's read answered Ok: at most what was asked for is handed on (R78, R162). -/
theorem mbReadAt_read_of_ok {s : State} {a : List Byte} {rest : List Answer} (h : s.answers = .ok a :: rest) :
    mbReadAt .read s = .next { s with
      port := s.port ++ [.read (mbExpected s.latch.count) .mbTimeout], answers := rest
      seq := .mbRead (.got (.ok (a.take (mbExpected s.latch.count)))) } := by
  simp only [mbReadAt, State.answer_of_cons h, State.transacted_goto_of_cons _ _ h, clipAnswer]

/-- A read of BMS_XCHG answered Ok: at most what was asked for is handed on (R78, R205). -/
theorem bmsXchgAt_read_of_ok {s : State} {a : List Byte} {rest : List Answer} (ix : ReadIx)
    (h : s.answers = .ok a :: rest) :
    bmsXchgAt (.read ix) s = .next { s with
      port := s.port ++ [.read s.chunkSize .bmsRdTimeout], answers := rest
      seq := .bmsXchg (.got ix (.ok (a.take s.chunkSize))) } := by
  simp only [bmsXchgAt, State.answer_of_cons h, State.transacted_goto_of_cons _ _ h, clipAnswer]

/-- Settles O31, one program point after the other. -/
theorem mbReadExchangeSteps : Obligations.MbReadExchangeSteps := by
  refine ⟨fun s a rest ha => ⟨?_, ?_, ?_, ?_, ?_⟩, ?_, ?_⟩
  · exact fun fr hs => (exec_mbRead_at hs).trans (State.transact_of_ok _ _ _ ha)
  · exact fun fr hs => (exec_mbRead_at hs).trans (State.transact_of_ok _ _ _ ha)
  · exact fun fr hs => (exec_mbRead_at hs).trans (State.transact_of_ok _ _ _ ha)
  · exact fun hs => (exec_mbRead_at hs).trans (mbReadAt_read_of_ok ha)
  · exact fun hs => (exec_mbRead_at hs).trans (State.transact_of_ok _ _ _ ha)
  · intro s bs hs
    refine ⟨(s.storeRx 0 bs).goto (.mbRead .closeIn), exec_mbRead_at hs, ?_, ?_, ?_⟩
    · simp only [State.goto, State.storeRx, Nat.zero_add]
    · exact holds_writeRange s.rxbuf 0 bs
    · exact fun k hk => read_writeRange_outside s.rxbuf 0 k bs (.inr (by omega))
  · exact fun s hs => exec_mbRead_at hs

/-- Settles O38, one program point after the other. -/
theorem bmsXchgExchangeSteps : Obligations.BmsXchgExchangeSteps := by
  refine ⟨fun s a rest ha => ⟨?_, ?_, ?_, ?_, ?_⟩, ?_, ?_, ?_⟩
  · exact fun fr hs => (exec_bmsXchg_at hs).trans (State.transact_of_ok _ _ _ ha)
  · exact fun fr hs => (exec_bmsXchg_at hs).trans (State.transact_of_ok _ _ _ ha)
  · exact fun fr hs => (exec_bmsXchg_at hs).trans (State.transact_of_ok _ _ _ ha)
  · rintro ix n rfl hs
    exact (exec_bmsXchg_at hs).trans (bmsXchgAt_read_of_ok ix ha)
  · exact fun hs => (exec_bmsXchg_at hs).trans (State.transact_of_ok _ _ _ ha)
  · exact fun s hs => exec_bmsXchg_at hs
  · exact fun s ix hs => exec_bmsXchg_at hs
  · exact fun s hs => exec_bmsXchg_at hs


/-! ### The invariant in two parts: the data, and the place of the sequencer -/

/-- The fields of `State.Inv` that speak of the parameters, registers and arrays alone. They hold in the middle of an
operation too, where the condition at the sequencer's place does not yet. -/
structure State.DataOk (s : State) : Prop where
  params : s.params.wf = true
  result_le : s.result.toNat ≤ 8
  txlen_le : s.txlen.toNat ≤ Config.txcap
  rxlen_le : s.rxlen.toNat ≤ s.params.rxcap
  regcnt_le : s.regcnt.toNat ≤ 127
  chunks_le : s.chunks.toNat ≤ 4
  txbuf_wf : Memory.wf Config.txcap s.txbuf = true
  rxbuf_wf : Memory.wf s.params.rxcap s.rxbuf = true
  regs_wf : Memory.wf 127 s.regs = true

/-- A command is in progress: BUSY is 1, DONE is 0, and `rst` is released (R23, R25, R300). -/
structure State.Running (s : State) : Prop where
  busy : s.busy = true
  done : s.done = false
  rst : s.rst = false

section

variable {s t : State}

theorem State.Inv.dataOk (h : s.Inv) : s.DataOk := { h with }

theorem State.Inv.running (h : s.Inv) (hs : s.seq ≠ .idle) : s.Running :=
  have hb : s.busy = true := Bool.eq_true_of_not_eq_false fun hf => hs (h.busy_iff.1 hf)
  { busy := hb
    done := h.done_idle hb
    rst := Bool.eq_false_of_not_eq_true fun hrst => hs (h.rst_idle hrst) }

theorem State.Inv.mbPosOk_of_seq {p : MbPos} (h : s.Inv) (hs : s.seq = .mbRead p) : s.mbPosOk p := by
  have hok := h.seq_ok
  rwa [State.seqOk, hs] at hok

theorem State.Inv.bmsPosOk_of_seq {p : BmsPos} (h : s.Inv) (hs : s.seq = .bmsXchg p) : s.bmsPosOk p := by
  have hok := h.seq_ok
  rwa [State.seqOk, hs] at hok

theorem State.DataOk.inv_of_idle (h : s.DataOk) (hb : s.busy = false) (hs : s.seq = .idle) : s.Inv :=
  { h with
    busy_iff := ⟨fun _ => hs, fun _ => hb⟩
    done_idle := by simp [hb]
    rst_idle := fun _ => hs
    seq_ok := by simp only [State.seqOk, hs] }

theorem State.DataOk.inv_of_running (h : s.DataOk) (hr : s.Running) (hs : s.seq ≠ .idle) (hq : s.seqOk) : s.Inv :=
  { h with
    busy_iff := by simp [hr.busy, hs]
    done_idle := fun _ => hr.done
    rst_idle := by simp [hr.rst]
    seq_ok := hq }

/-! ### What the shared operations keep -/

/-- Whose turn it is, is nothing the invariant speaks of. -/
theorem State.Inv.popTurn (h : s.Inv) : s.popTurn.Inv := { h with }

theorem State.Inv.returned (h : s.Inv) (v : Word) : (s.returned v).Inv := { h with }

/-- A dropped write sets OVR at most (R250). -/
theorem State.Inv.setOvr (h : s.Inv) : State.Inv { s with ovr := true } := { h with }

/-- A command that completes leaves an idle machine (R10, R254). -/
theorem State.DataOk.complete (h : s.DataOk) (r : ResultCode) : (s.complete r).Inv :=
  State.DataOk.inv_of_idle { h with result_le := r.code_le } rfl rfl

/-- The invariant says nothing of CRC and CRC_OK. -/
theorem State.DataOk.writeCrc (h : s.DataOk) (crc : Half) (crcOk : Bool) :
    State.DataOk { s with crc := crc, crcOk := crcOk } := { h with }

/-- A command that goes on is still running where it goes on. -/
theorem State.DataOk.goto (h : s.DataOk) (hr : s.Running) {q : Seq} (hq : q ≠ .idle) (hok : (s.goto q).seqOk) :
    (s.goto q).Inv :=
  State.DataOk.inv_of_running (s := s.goto q) { h with } { hr with } hq hok

theorem State.DataOk.transacted (h : s.DataOk) (tx : Transaction) : (s.transacted tx).DataOk := { h with }

theorem State.Running.transacted (h : s.Running) (tx : Transaction) : (s.transacted tx).Running := { h with }

theorem State.DataOk.logged (h : s.DataOk) (tx : Transaction) : (s.logged tx).DataOk := { h with }

theorem State.Running.logged (h : s.Running) (tx : Transaction) : (s.logged tx).Running := { h with }

/-- A clear or a write keeps the invariant if both places it can lead to may be stood at. -/
theorem State.DataOk.transact (h : s.DataOk) (hr : s.Running) {tx : Transaction} {good bad : Seq}
    (ht : s.transact tx good bad = .next t) (hg : good ≠ .idle) (hb : bad ≠ .idle)
    (hgood : ((s.transacted tx).goto good).seqOk) (hbad : ((s.transacted tx).goto bad).seqOk) : t.Inv := by
  rw [State.transact_eq] at ht
  cases ht
  split
  · exact (h.transacted tx).goto (hr.transacted tx) hb hbad
  · exact (h.transacted tx).goto (hr.transacted tx) hg hgood

/-- Bytes received that fit RXBUF keep the data in range (R32, R39). -/
theorem State.DataOk.storeRx (h : s.DataOk) {base : Nat} {bs : List Byte}
    (hfit : base + bs.length ≤ s.params.rxcap) : (s.storeRx base bs).DataOk :=
  { h with
    rxlen_le := by
      have hcap := params_bounds h.params
      simp only [State.storeRx_rxlen, State.storeRx_params, BitVec.toNat_ofNat]
      omega
    rxbuf_wf := Memory.wf_writeRange bs s.rxbuf base hfit h.rxbuf_wf }

theorem State.DataOk.buildMb (h : s.DataOk) : s.buildMb.DataOk :=
  { h with
    txlen_le := show (8#16).toNat ≤ 512 by decide
    txbuf_wf := Memory.wf_writeRange _ s.txbuf 0 (by rw [mbRequest_length]; decide) h.txbuf_wf }

/-- The longest BMS request, with a payload of 255 bytes, fits TXBUF (R210). -/
theorem State.DataOk.buildBms (h : s.DataOk) (p : List Byte) : (s.buildBms p).DataOk :=
  have hplen := s.latch.plen.isLt
  { h with
    txlen_le := by
      simp only [State.buildBms_txlen, BitVec.toNat_ofNat, Config.txcap]
      omega
    txbuf_wf := by
      have hheader := bmsHeader_length s.latch.bcmd s.latch.plen
      refine Memory.wf_write _ (by simp only [Config.txcap]; omega) ?_
      exact Memory.wf_writeRange _ s.txbuf 0 (by simp only [Config.txcap]; omega) h.txbuf_wf }

/-- A Modbus result with at most 127 registers may be written and completed with (R33, R40, R156). -/
theorem State.DataOk.finishMb (h : s.DataOk) {r : MbResult} (hr : ∀ regs, r = .ok regs → regs.length ≤ 127) :
    (s.finishMb r).Inv := by
  have failed : ∀ code, State.DataOk { s with regcnt := 0#16, exc := code } :=
    fun _ => { h with regcnt_le := Nat.zero_le _ }
  cases r with
  | ok regs =>
    have hlen := hr regs rfl
    refine State.DataOk.complete (s := s.writeDecode (.ok regs)) ?_ _
    exact { h with
      regcnt_le := by
        simp only [State.writeDecode, BitVec.toNat_ofNat]
        omega
      regs_wf := Memory.wf_writeRange regs s.regs 0 (by omega) h.regs_wf }
  | deviceException code => exact (failed code).complete _
  | noResponse => exact (failed 0#8).complete _
  | frameCorrupt => exact (failed 0#8).complete _
  | frameTooShort => exact (failed 0#8).complete _
  | badRequest => exact (failed 0#8).complete _
  | transportError => exact (failed 0#8).complete _

/-- A decode of what was received yields at most 127 registers (R33). -/
theorem State.decodeRx_ok_length {r : MbResult} {c : Half} {regs : List Half} (h : s.decodeRx = some (r, c))
    (hr : r = .ok regs) : regs.length ≤ 127 := by
  subst hr
  rcases s.decodeRx_cases with hn | ⟨code, hx⟩ | ⟨f, _, hd⟩
  · rw [hn] at h; cases h
  · rw [hx] at h; cases h
  · rw [hd] at h
    exact mbDecode_ok_length (Prod.mk.inj (Option.some.inj h)).1

theorem State.DataOk.finishDecode (h : s.DataOk) (ht : s.finishDecode = .next t) : t.Inv := by
  cases hd : s.decodeRx with
  | none => rw [State.finishDecode_fault hd] at ht; cases ht
  | some rc =>
    obtain ⟨r, c⟩ := rc
    rw [State.finishDecode_eq hd] at ht
    cases ht
    exact State.DataOk.finishMb (s := { s with privCrc := c }) { h with }
      (fun regs hr => State.decodeRx_ok_length hd hr)

theorem State.DataOk.finishBms (h : s.DataOk) (ht : s.finishBms = .next t) : t.Inv := by
  unfold State.finishBms at ht
  cases hb : s.rxBytes with
  | none => rw [hb] at ht; cases ht
  | some f => rw [hb] at ht; cases ht; exact h.complete _

/-! ### What the later steps of an exchange rely on -/

theorem State.rxWritten_of_rxlen (h : s.rxlen = 0#16) : s.rxWritten := by
  unfold State.rxWritten State.rxBytes
  rw [h]
  rfl

/-- Appending to written bytes leaves written bytes (`append` of R212). -/
theorem State.rxWritten_storeRx (h : s.rxWritten) {bs : List Byte} (hfit : s.rxlen.toNat + bs.length < 65536) :
    (s.storeRx s.rxlen.toNat bs).rxWritten := by
  obtain ⟨f, hf⟩ := Option.isSome_iff_exists.1 h
  have old : Memory.readRange (Memory.writeRange s.rxbuf s.rxlen.toNat bs) 0 s.rxlen.toNat = some f :=
    (Memory.readRange_writeRange_before s.rxbuf bs (by omega)).trans hf
  have new : Memory.readRange (Memory.writeRange s.rxbuf s.rxlen.toNat bs) (0 + s.rxlen.toNat) bs.length = some bs := by
    rw [Nat.zero_add]
    exact Memory.readRange_writeRange_same s.rxbuf s.rxlen.toNat bs
  unfold State.rxWritten State.rxBytes
  simp only [State.storeRx_rxbuf, State.storeRx_rxlen, BitVec.toNat_ofNat, Nat.mod_eq_of_lt hfit,
    Memory.readRange_append old new, Option.isSome_some]

/-- Bytes stored from RXBUF[0] on are the bytes received (R162). -/
theorem State.rxWritten_storeRx_zero {bs : List Byte} (hfit : bs.length < 65536) : (s.storeRx 0 bs).rxWritten := by
  unfold State.rxWritten State.rxBytes
  simp only [State.storeRx_rxbuf, State.storeRx_rxlen, BitVec.toNat_ofNat, Nat.zero_add, Nat.mod_eq_of_lt hfit,
    Memory.readRange_writeRange_same, Option.isSome_some]

/-- The frame a Modbus build puts in TXBUF is TXBUF[0..TXLEN) (R38). -/
theorem State.buildMb_txBytes :
    s.buildMb.txBytes = some (mbRequest s.latch.slave s.latch.func s.latch.start s.latch.count) :=
  State.txBytes_eq_some_iff.2 ⟨rfl, holds_writeRange s.txbuf 0 _⟩

/-- The frame a BMS build puts in TXBUF is TXBUF[0..TXLEN) (R38). -/
theorem State.buildBms_txBytes {p : List Byte} (hp : s.payload = some p) :
    (s.buildBms p).txBytes = some (bmsRequest s.latch.bcmd p) := by
  obtain ⟨hlen, hholds⟩ := State.payload_eq_some_iff.1 hp
  refine State.txBytes_eq_some_iff.2 ⟨?_, buildBms_holds hlen hholds⟩
  have hplen := s.latch.plen.isLt
  simp only [bmsRequest, State.buildBms_txlen, List.length_append, bmsHeader_length, List.length_singleton,
    BitVec.toNat_ofNat]
  omega

/-- Read number `ix` is counted as one more (R34). -/
theorem chunks_add_one {ix : ReadIx} (h : s.chunks.toNat = ix.index) :
    (s.chunks + 1#3).toNat = ix.index + 1 := by
  rw [BitVec.toNat_add, h]
  cases ix <;> rfl

theorem ReadIx.index_le (ix : ReadIx) : ix.index ≤ 3 := by cases ix <;> decide

theorem ReadIx.index_of_following {ix next : ReadIx} (h : ix.following = some next) : next.index = ix.index + 1 := by
  cases ix <;> cases h <;> rfl

/-- Counting a read keeps CHUNKS in its range (R34). -/
theorem State.DataOk.countRead (h : s.DataOk) {ix : ReadIx} (hix : s.chunks.toNat = ix.index) :
    State.DataOk { s with chunks := s.chunks + 1#3 } :=
  { h with
    chunks_le := by
      have hle := ix.index_le
      simp only [chunks_add_one hix]
      omega }

/-- After bytes were appended, the schedule goes to the closing clear or to the next drain read, and that one only if
RXBUF has room (R204, R205). -/
theorem State.afterRead_cases (s : State) (ix : ReadIx) :
    s.afterRead ix = .closeIn ∨ ∃ next, ix.following = some next ∧ 0 < s.room ∧ s.afterRead ix = .drainWait next := by
  unfold State.afterRead
  cases ix.following with
  | none => exact .inl rfl
  | some next =>
    by_cases hroom : s.room = 0
    · exact .inl (if_pos hroom)
    · exact .inr ⟨next, rfl, Nat.pos_of_ne_zero hroom, if_neg hroom⟩

/-- The step after a read of BMS_XCHG that was answered Ok, its read already counted (R212). -/
theorem State.DataOk.appendChunk (h : s.DataOk) (hr : s.Running) {ix : ReadIx} {bs : List Byte} (hw : s.rxWritten)
    (hix : s.chunks.toNat = ix.index + 1) (hfit : s.rxlen.toNat + bs.length ≤ s.params.rxcap) :
    (s.appendChunk ix bs).Inv := by
  have hcap := params_bounds h.params
  have hdata := h.storeRx hfit
  have hrun : (s.storeRx s.rxlen.toNat bs).Running := { hr with }
  have hwritten : (s.storeRx s.rxlen.toNat bs).rxWritten := State.rxWritten_storeRx hw (by omega)
  unfold State.appendChunk
  split
  · exact h.goto hr Seq.noConfusion hw
  · rcases (s.storeRx s.rxlen.toNat bs).afterRead_cases ix with hclose | ⟨next, hnext, hroom, hdrain⟩
    · rw [hclose]
      exact hdata.goto hrun Seq.noConfusion hwritten
    · rw [hdrain]
      exact hdata.goto hrun Seq.noConfusion ⟨hwritten, hix.trans (ReadIx.index_of_following hnext).symm, hroom⟩

/-! ### The first engine step of a command -/

theorem execCrcTx_inv (h : s.DataOk) (ht : execCrcTx s = .next t) : t.Inv := by
  unfold execCrcTx at ht
  split at ht
  · cases ht
  · cases ht; exact (h.writeCrc _ _).complete _

theorem execCrcChk_inv (h : s.DataOk) (ht : execCrcChk s = .next t) : t.Inv := by
  unfold execCrcChk at ht
  split at ht
  · cases ht
  · cases ht; exact (h.writeCrc _ _).complete _

theorem execMbBuild_inv (h : s.DataOk) (ht : execMbBuild s = .next t) : t.Inv := by
  unfold execMbBuild at ht
  split at ht
  · cases ht; exact h.buildMb.complete _
  · cases ht; exact h.complete _

theorem execBmsBuild_inv (h : s.DataOk) (ht : execBmsBuild s = .next t) : t.Inv := by
  unfold execBmsBuild at ht
  split at ht
  · cases ht; exact h.complete _
  · split at ht
    · cases ht
    · cases ht; exact (h.buildBms _).complete _

theorem execClrStatus_inv (h : s.DataOk) (ht : execClrStatus s = .next t) : t.Inv := by
  cases ht
  exact State.DataOk.inv_of_idle { h with result_le := Nat.zero_le _ } rfl rfl

/-- The build step of MB_READ: refused, or admitted with the request in TXBUF (R151, R153, R162). -/
theorem mbReadBuild_inv (h : s.DataOk) (hr : s.Running) (ht : mbReadBuild s = .next t) : t.Inv := by
  unfold mbReadBuild at ht
  split at ht
  · cases ht; exact h.finishMb nofun
  · rename_i hlegal
    split at ht
    · cases ht; exact h.finishMb nofun
    · rename_i hcap
      cases ht
      have hdata : State.DataOk { s.buildMb with rxlen := 0#16 } := { h.buildMb with rxlen_le := Nat.zero_le _ }
      refine hdata.goto { hr with } Seq.noConfusion ⟨⟨?_, ?_⟩, ?_⟩
      · exact Bool.eq_true_of_not_eq_false hlegal
      · exact Nat.le_of_not_lt hcap
      · exact State.buildMb_txBytes

/-- The build step of BMS_XCHG (R212). -/
theorem bmsXchgBuild_inv (h : s.DataOk) (hr : s.Running) (ht : bmsXchgBuild s = .next t) : t.Inv := by
  unfold bmsXchgBuild at ht
  split at ht
  · have hdata : State.DataOk { s with chunks := 0#3 } := { h with chunks_le := Nat.zero_le _ }
    cases ht
    exact hdata.complete _
  · split at ht
    · cases ht
    · rename_i p hp
      cases ht
      have hdata : State.DataOk { s.buildBms p with chunks := 0#3, rxlen := 0#16 } :=
        { h.buildBms p with rxlen_le := Nat.zero_le _, chunks_le := Nat.zero_le _ }
      exact hdata.goto { hr with } Seq.noConfusion ⟨State.buildBms_txBytes hp, rfl, rfl⟩

/-- The first engine step of any command keeps the invariant. -/
theorem exec_start_inv {w : Word} {i : Instr} (h : s.DataOk) (hr : s.Running) (hs : s.seq = .start w)
    (ht : exec i s = .next t) : t.Inv := by
  cases i with
  | crcInit => cases ht; exact (h.writeCrc _ _).complete _
  | crcByte arg => cases ht; exact (h.writeCrc _ _).complete _
  | crcTx => exact execCrcTx_inv h ht
  | crcChk => exact execCrcChk_inv h ht
  | mbBuild => exact execMbBuild_inv h ht
  | mbDecode => exact h.finishDecode ht
  | mbRead =>
    simp only [exec, execMbRead, hs] at ht
    exact mbReadBuild_inv h hr ht
  | bmsBuild => exact execBmsBuild_inv h ht
  | bmsCheck => exact h.finishBms ht
  | bmsXchg =>
    simp only [exec, execBmsXchg, hs] at ht
    exact bmsXchgBuild_inv h hr ht
  | clrStatus => exact execClrStatus_inv h ht

/-! ### The engine steps of a running exchange -/

/-- Every program point of MB_READ leads to one whose condition holds, or ends the command (R162). -/
theorem mbReadAt_inv {p : MbPos} (h : s.DataOk) (hr : s.Running) (hok : s.mbPosOk p) (ht : mbReadAt p s = .next t) :
    t.Inv := by
  cases p with
  | clearIn fr => exact h.transact hr ht Seq.noConfusion Seq.noConfusion hok trivial
  | clearOut fr => exact h.transact hr ht Seq.noConfusion Seq.noConfusion hok trivial
  | write fr =>
    obtain ⟨hadmitted, _⟩ := hok
    exact h.transact hr ht Seq.noConfusion Seq.noConfusion hadmitted trivial
  | read =>
    cases ht
    refine (h.transacted _).goto (hr.transacted _) Seq.noConfusion ?_
    cases hc : clipAnswer (mbExpected s.latch.count) s.answer with
    | err => exact hok
    | ok bs => exact ⟨hok, clipAnswer_length hc⟩
  | got r =>
    cases r with
    | err => cases ht; exact h.finishMb nofun
    | ok bs =>
      obtain ⟨⟨_, hadmitted⟩, hlen⟩ := hok
      have hcap := params_bounds h.params
      cases ht
      exact (h.storeRx (by omega)).goto { hr with } Seq.noConfusion (State.rxWritten_storeRx_zero (by omega))
  | closeIn => exact h.transact hr ht Seq.noConfusion Seq.noConfusion hok trivial
  | failed => cases ht; exact h.finishMb nofun
  | finish => exact h.finishDecode ht

/-- Every program point of BMS_XCHG leads to one whose condition holds, or ends the command (R212). -/
theorem bmsXchgAt_inv {p : BmsPos} (h : s.DataOk) (hr : s.Running) (hok : s.bmsPosOk p)
    (ht : bmsXchgAt p s = .next t) : t.Inv := by
  cases p with
  | clearIn fr => exact h.transact hr ht Seq.noConfusion Seq.noConfusion hok trivial
  | clearOut fr => exact h.transact hr ht Seq.noConfusion Seq.noConfusion hok trivial
  | write fr =>
    obtain ⟨_, hnothingRead⟩ := hok
    exact h.transact hr ht Seq.noConfusion Seq.noConfusion hnothingRead trivial
  | settle =>
    obtain ⟨hrxlen, hchunks⟩ := hok
    have hcap := params_bounds h.params
    cases ht
    refine (h.logged _).goto (hr.logged _) Seq.noConfusion ⟨State.rxWritten_of_rxlen hrxlen, ?_, ?_⟩
    · exact congrArg BitVec.toNat hchunks
    · simp only [State.room, State.goto_params, State.goto_rxlen, State.logged_params, State.logged_rxlen, hrxlen,
        BitVec.toNat_ofNat]
      omega
  | drainWait ix => cases ht; exact (h.logged _).goto (hr.logged _) Seq.noConfusion hok
  | read ix =>
    obtain ⟨hw, hix, _⟩ := hok
    cases ht
    refine (h.transacted _).goto (hr.transacted _) Seq.noConfusion ?_
    cases hc : clipAnswer s.chunkSize s.answer with
    | err => exact ⟨hw, hix⟩
    | ok bs => exact ⟨hw, hix, clipAnswer_length hc⟩
  | got ix r =>
    cases r with
    | err =>
      obtain ⟨_, hix⟩ := hok
      cases ht
      exact (h.countRead hix).complete _
    | ok bs =>
      obtain ⟨hw, hix, hlen⟩ := hok
      have hroom : s.chunkSize ≤ s.params.rxcap - s.rxlen.toNat := Nat.min_le_right _ _
      have hrxlen := h.rxlen_le
      cases ht
      exact (h.countRead hix).appendChunk { hr with } hw (chunks_add_one hix) (by simp only; omega)
  | closeIn => exact h.transact hr ht Seq.noConfusion Seq.noConfusion hok trivial
  | failed => cases ht; exact h.complete _
  | finish => exact h.finishBms ht

/-- An engine step keeps the invariant: PB is IDLE, at the start of a command, or inside an exchange (R23). -/
theorem engineStep_inv (h : s.Inv) (ht : engineStep s = .next t) : t.Inv := by
  unfold engineStep at ht
  split at ht
  · cases ht; exact h
  · cases hs : s.seq with
    | idle => simp only [State.fetch, hs] at ht; cases ht; exact h
    | start w =>
      have hr := h.running (by rw [hs]; exact Seq.noConfusion)
      rw [State.fetch_of_start hs] at ht
      cases hd : decode w with
      | ok i => rw [hd] at ht; exact exec_start_inv h.dataOk hr hs ht
      | error e => rw [hd] at ht; cases ht; exact h.dataOk.complete _
    | mbRead p =>
      have hr := h.running (by rw [hs]; exact Seq.noConfusion)
      rw [State.fetch_of_mbRead hs] at ht
      exact mbReadAt_inv h.dataOk hr (h.mbPosOk_of_seq hs) ((exec_mbRead_at hs).symm.trans ht)
    | bmsXchg p =>
      have hr := h.running (by rw [hs]; exact Seq.noConfusion)
      rw [State.fetch_of_bmsXchg hs] at ht
      exact bmsXchgAt_inv h.dataOk hr (h.bmsPosOk_of_seq hs) ((exec_bmsXchg_at hs).symm.trans ht)

/-! ### The host's turns and the reset input -/

theorem State.Inv.writeBusy (h : s.Inv) (tg : Target) : (s.writeBusy tg).Inv := by
  cases tg with
  | status => exact h
  | reserved => exact h
  | _ => exact h.setOvr

/-- A write to CMD starts a command (R253). -/
theorem State.Inv.issue (h : s.Inv) (hrst : s.rst = false) (v : Word) : (s.issue v).Inv :=
  State.DataOk.inv_of_running (s := s.issue v) { h with } ⟨rfl, rfl, hrst⟩ Seq.noConfusion trivial

/-- A write that takes effect stores clamped lengths, and entries inside their arrays (R31, R32, R38, R39). -/
theorem State.Inv.writeIdle (h : s.Inv) (hb : s.busy = false) (hrst : s.rst = false) (v : Word) {k : Nat} {tg : Target}
    (hat : tg.liesAt s.params.rxcap k) : (s.writeIdle v tg).Inv := by
  obtain ⟨_, hrxcap, _, _⟩ := params_bounds h.params
  have hs := h.busy_iff.1 hb
  have stored : ∀ {u : State}, u.DataOk → u.busy = s.busy → u.seq = s.seq → u.Inv :=
    fun hu hub hus => hu.inv_of_idle (hub.trans hb) (hus.trans hs)
  cases tg with
  | cmd => exact h.issue hrst v
  | status => exact h
  | exc => exact h
  | regcnt => exact h
  | chunks => exact h
  | param => exact h
  | reg i => exact h
  | reserved => exact h
  | crc => exact stored { h with } rfl rfl
  | mbAddr => exact stored { h with } rfl rfl
  | mbRange => exact stored { h with } rfl rfl
  | bmsCfg => exact stored { h with } rfl rfl
  | txlen => exact stored { h with txlen_le := clampLength_le v (by decide) } rfl rfl
  | rxlen => exact stored { h with rxlen_le := clampLength_le v hrxcap } rfl rfl
  | tx i => exact stored { h with txbuf_wf := Memory.wf_write _ hat.1 h.txbuf_wf } rfl rfl
  | rx i => exact stored { h with rxbuf_wf := Memory.wf_write _ hat.1 h.rxbuf_wf } rfl rfl

/-- A write inside the window: ignored in reset, dropped by the busy gate, or stored (R250, R300). -/
theorem State.Inv.writeTarget (h : s.Inv) (v : Word) {k : Nat} {tg : Target} (hat : tg.liesAt s.params.rxcap k) :
    (s.writeTarget v tg).Inv := by
  unfold State.writeTarget
  split
  · exact h
  · rename_i hrst
    split
    · exact h.writeBusy tg
    · rename_i hb
      exact h.writeIdle (Bool.eq_false_of_not_eq_true hb) (Bool.eq_false_of_not_eq_true hrst) v hat

theorem hostRead_inv {width : AccessWidth} {addr : Nat} (h : s.Inv) (ht : hostRead width addr s = .next t) :
    t.Inv := by
  unfold hostRead at ht
  split at ht
  · cases ht
  · cases ht
  · split at ht
    · cases ht
    · split at ht
      · cases ht
      · cases ht; exact h.returned _

/-- What an address names lies somewhere in the window. -/
theorem State.target_liesAt {addr : Nat} {tg : Target} (h : s.target addr = some tg) :
    ∃ k, tg.liesAt s.params.rxcap k := by
  unfold State.target at h
  split at h
  · cases h; exact ⟨_, targetAt_liesAt _ _⟩
  · cases h

theorem hostWrite_inv {width : AccessWidth} {addr : Nat} {v : Word} (h : s.Inv)
    (ht : hostWrite width addr v s = .next t) : t.Inv := by
  unfold hostWrite at ht
  split at ht
  · cases ht
  · cases ht
  · split at ht
    · cases ht
    · rename_i tg htarget
      cases ht
      obtain ⟨k, hat⟩ := State.target_liesAt htarget
      exact h.writeTarget v hat

theorem hostPoll_inv (h : s.Inv) (ht : hostPoll s = .next t) : t.Inv := by
  unfold hostPoll at ht
  split at ht
  · cases ht; exact { h with }
  · cases ht; exact h.returned _

/-- The reset input makes PB idle and keeps the arrays (R300, R301). -/
theorem resetInput_inv {level : Bool} (h : s.Inv) (ht : resetInput level s = .next t) : t.Inv := by
  unfold resetInput at ht
  split at ht
  · cases ht
    refine State.DataOk.inv_of_idle ?_ rfl rfl
    exact { h with
      result_le := Nat.zero_le _
      txlen_le := Nat.zero_le _
      rxlen_le := Nat.zero_le _
      regcnt_le := Nat.zero_le _
      chunks_le := Nat.zero_le _ }
  · cases ht
    exact { h with rst_idle := nofun }

theorem takeTurn_inv {turn : Turn} (h : s.Inv) (ht : takeTurn turn s = .next t) : t.Inv := by
  cases turn with
  | engine => exact engineStep_inv h ht
  | read width addr => exact hostRead_inv h ht
  | write width addr v => exact hostWrite_inv h ht
  | poll => exact hostPoll_inv h ht
  | rst level => exact resetInput_inv h ht

end

/-- Settles O17: whichever agent moves, its move keeps the invariant. -/
theorem stepKeepsInvariant : Obligations.StepKeepsInvariant :=
  fun _ _ h ht => takeTurn_inv h.popTurn ht

end Sys2Proof.Machine

/-!
PROOFS. The family of spec/10_state.md, the host's side: what reads return (O10, O11), what writes store (O9), and
LOADRX (O48).
-/
namespace Sys2Proof.Machine

/-! ### Fields of words as numbers -/

theorem lowHalf_eq_ofNat (v : Word) : lowHalf v = BitVec.ofNat 16 v.toNat := by
  apply BitVec.eq_of_toNat_eq; rw [lowHalf_toNat, BitVec.toNat_ofNat]

theorem highHalf_eq_ofNat (v : Word) : highHalf v = BitVec.ofNat 16 (v.toNat / 65536) := by
  apply BitVec.eq_of_toNat_eq; rw [highHalf_toNat, BitVec.toNat_ofNat]

theorem wordByte0_eq_ofNat (v : Word) : wordByte0 v = BitVec.ofNat 8 v.toNat := by
  apply BitVec.eq_of_toNat_eq; rw [wordByte0_toNat, BitVec.toNat_ofNat]

theorem wordByte1_eq_ofNat (v : Word) : wordByte1 v = BitVec.ofNat 8 (v.toNat / 256) := by
  apply BitVec.eq_of_toNat_eq; rw [wordByte1_toNat, BitVec.toNat_ofNat]

theorem clampLength_eq_ofNat (v : Word) (cap : Nat) :
    clampLength v cap = BitVec.ofNat 16 (min (v.toNat % 65536) cap) := by
  rw [clampLength, lowHalf_toNat]

/-- A field of at most 32 bits, zero-extended to a word. -/
theorem setWidth_eq_ofNat {w : Nat} (x : BitVec w) : x.setWidth 32 = BitVec.ofNat 32 x.toNat := by
  apply BitVec.eq_of_toNat_eq; rw [BitVec.toNat_setWidth, BitVec.toNat_ofNat]

/-- Two byte fields below 16 zero bits (R28, R30). -/
theorem bytePair_eq_ofNat (hi lo : Byte) : (0#16 ++ hi ++ lo : Word) = BitVec.ofNat 32 (lo.toNat + 256 * hi.toNat) := by
  have hhi := hi.isLt
  have hlo := lo.isLt
  apply BitVec.eq_of_toNat_eq
  simp only [toNat_concat, BitVec.toNat_ofNat]
  omega

/-- Two 16-bit fields (R29, R35). -/
theorem halfPair_eq_ofNat (hi lo : Half) : (hi ++ lo : Word) = BitVec.ofNat 32 (lo.toNat + 65536 * hi.toNat) := by
  have hhi := hi.isLt
  have hlo := lo.isLt
  apply BitVec.eq_of_toNat_eq
  simp only [toNat_concat, BitVec.toNat_ofNat]
  omega

/-- STATUS as the word of its fields (R25). -/
theorem statusWord_eq_ofNat (s : State) : s.statusWord = BitVec.ofNat 32
    (s.busy.toNat + 2 * s.done.toNat + 4 * s.crcOk.toNat + 8 * s.ovr.toNat + 256 * s.result.toNat) := by
  rw [← statusWord_toNat, BitVec.ofNat_toNat, BitVec.setWidth_eq]

/-- PARAM shows TXCAP and RXCAP (R35). -/
theorem paramWord_eq_ofNat {rxcap : Nat} (h : rxcap ≤ 1024) :
    (BitVec.ofNat 16 Config.txcap ++ BitVec.ofNat 16 rxcap : Word) = BitVec.ofNat 32 (rxcap + 65536 * 512) := by
  rw [halfPair_eq_ofNat]
  congr 1
  simp only [Config.txcap, BitVec.toNat_ofNat]
  omega

/-! ### Which words are reserved or read-only -/

/-- STATUS is the second word of the window (R60). -/
theorem offset_of_targetAt_status {c o : Nat} (h : targetAt c o = .status) : o / 4 = 1 := by
  unfold targetAt at h
  split at h
  · unfold registerAt at h
    split at h <;> first | assumption | cases h
  · repeat' (split at h)
    all_goals cases h

/-- A word other than STATUS to which a write never sets OVR is reserved (R36, R250). -/
theorem targetAt_of_not_writeGated {c o : Nat} (ho : o < 0x4000) (hg : writeGated c o = false) (h1 : o / 4 ≠ 1) :
    targetAt c o = .reserved := by
  by_contra hr
  have hgated := writeGated_of_target ho (fun hs => h1 (offset_of_targetAt_status hs)) hr
  exact Bool.noConfusion (hg.symm.trans hgated)

/-- A write to a word that is not writable stores nothing (R24, R25, R27, R33 to R36, R40). -/
theorem writeIdle_of_not_writable {s : State} {v : Word} {o : Nat} (hw : writable s.params.rxcap o = false) :
    s.writeIdle v (targetAt s.params.rxcap o) = s := by
  have hat := targetAt_liesAt s.params.rxcap o
  unfold writable at hw
  simp only [Bool.or_eq_false_iff, Bool.and_eq_false_iff, decide_eq_false_iff_not] at hw
  cases htg : targetAt s.params.rxcap o with
  | status => rfl
  | exc => rfl
  | regcnt => rfl
  | chunks => rfl
  | param => rfl
  | reg i => rfl
  | reserved => rfl
  | _ => rw [htg] at hat; simp only [Target.liesAt] at hat; omega

/-! ### Host reads -/

/-- A host read of a word that holds a value returns it and changes nothing else (R67). -/
theorem step_read_of_ok {s : State} {o : Nat} {v : Word} {rest : List Turn} (ho : o < 0x4000)
    (h : s.agenda = .read .word (s.params.pbBase + o) :: rest)
    (hv : s.readTarget (targetAt s.params.rxcap o) = .ok v) :
    step s = .next { s with agenda := rest, rdata := s.rdata ++ [v] } := by
  rw [step_read ho h, hv]

/-- A host read of one of the registers (R60). -/
theorem step_read_register {s : State} {o k : Nat} {v : Word} {rest : List Turn} (ho : o < 0x4000)
    (h : s.agenda = .read .word (s.params.pbBase + o) :: rest) (hk : k < 12) (hok : o / 4 = k)
    (hv : s.readTarget (registerAt k) = .ok v) :
    step s = .next { s with agenda := rest, rdata := s.rdata ++ [v] } :=
  step_read_of_ok ho h (by rw [targetAt_low hok hk, hv])

/-- Settles O10, one register after the other. -/
theorem hostReadReturnsRegisters : Obligations.HostReadReturnsRegisters := by
  intro s o rest ho hp h
  obtain ⟨_, hcap, _, _⟩ := params_bounds hp
  have reads : ∀ {k : Nat} {v : Word}, k < 12 → s.readTarget (registerAt k) = .ok v → o / 4 = k →
      step s = .next { s with agenda := rest, rdata := s.rdata ++ [v] } :=
    fun hk hv hok => step_read_register ho h hk hok hv
  refine ⟨?_, ?_, ?_, ?_, ?_, ?_, ?_, ?_, ?_, ?_, ?_, ?_, fun hg h1 => ?_⟩
  · exact reads (by decide) rfl
  · exact reads (by decide) (congrArg _ (statusWord_eq_ofNat s))
  · exact reads (by decide) (congrArg _ (setWidth_eq_ofNat s.crc))
  · exact reads (by decide) (congrArg _ (setWidth_eq_ofNat s.exc))
  · exact reads (by decide) (congrArg _ (bytePair_eq_ofNat s.func s.slave))
  · exact reads (by decide) (congrArg _ (halfPair_eq_ofNat s.count s.start))
  · exact reads (by decide) (congrArg _ (bytePair_eq_ofNat s.plen s.bcmd))
  · exact reads (by decide) (congrArg _ (setWidth_eq_ofNat s.txlen))
  · exact reads (by decide) (congrArg _ (setWidth_eq_ofNat s.rxlen))
  · exact reads (by decide) (congrArg _ (setWidth_eq_ofNat s.regcnt))
  · exact reads (by decide) (congrArg _ (setWidth_eq_ofNat s.chunks))
  · exact reads (by decide) (congrArg _ (paramWord_eq_ofNat hcap))
  · exact step_read_of_ok ho h (by rw [targetAt_of_not_writeGated ho hg h1]; rfl)

theorem entryWord_of_some {w i : Nat} {m : Memory w} {b : BitVec w} (h : Memory.read m i = some b) :
    entryWord m i = some (BitVec.ofNat 32 b.toNat) := by
  rw [entryWord, h, Option.map_some, setWidth_eq_ofNat]

theorem entryWord_of_none {w i : Nat} {m : Memory w} (h : Memory.read m i = none) : entryWord m i = none := by
  rw [entryWord, h, Option.map_none]

/-- A host read of an array entry: its value, or the fault UninitRead (R41). -/
theorem step_read_entry {s : State} {o : Nat} {rest : List Turn} {w i : Nat} {m : Memory w} {a : DataArray}
    (ho : o < 0x4000) (h : s.agenda = .read .word (s.params.pbBase + o) :: rest)
    (hsome : ∀ x, entryWord m i = some x → s.readTarget (targetAt s.params.rxcap o) = .ok x)
    (hnone : entryWord m i = none → s.readTarget (targetAt s.params.rxcap o) = .error (.uninitRead a)) :
    (∀ b, Memory.read m i = some b →
      step s = .next { s with agenda := rest, rdata := s.rdata ++ [BitVec.ofNat 32 b.toNat] }) ∧
    (Memory.read m i = none → step s = .fault (.uninitRead a)) :=
  ⟨fun _ hb => step_read_of_ok ho h (hsome _ (entryWord_of_some hb)),
    fun hn => by rw [step_read ho h, hnone (entryWord_of_none hn)]⟩

/-- Settles O11. -/
theorem hostReadsOfArrayEntries : Obligations.HostReadsOfArrayEntries := by
  intro s o i rest hp h
  obtain ⟨_, hcap, _, _⟩ := params_bounds hp
  refine ⟨fun hi hoi => ?_, fun hi hoi => ?_, fun hi hoi => ?_⟩
  · refine step_read_entry (by omega) h (fun x hx => ?_) (fun hx => ?_) <;>
      rw [targetAt_tx hi hoi, State.readTarget, hx]
  · refine step_read_entry (by omega) h (fun x hx => ?_) (fun hx => ?_) <;>
      rw [targetAt_rx hcap hi hoi, State.readTarget, hx]
  · refine step_read_entry (by omega) h (fun x hx => ?_) (fun hx => ?_) <;>
      rw [targetAt_reg hi hoi, State.readTarget, hx]

/-! ### Host writes with BUSY = 0 -/

/-- A host write that takes effect stores what `writeIdle` says (R250, R300). -/
theorem step_write_idle {s : State} {o : Nat} {v : Word} {rest : List Turn} (ho : o < 0x4000) (hr : s.rst = false)
    (hb : s.busy = false) (h : s.agenda = .write .word (s.params.pbBase + o) v :: rest) :
    step s = .next (State.writeIdle { s with agenda := rest } v (targetAt s.params.rxcap o)) := by
  rw [step_write ho h, State.writeTarget, if_neg (by simp [hr]), if_neg (by simp [hb])]

/-- Settles O9, one word after the other. -/
theorem idleHostWritesStoreFields : Obligations.IdleHostWritesStoreFields := by
  intro s v o rest ho hp hr hb h
  obtain ⟨_, hcap, _, _⟩ := params_bounds hp
  have hstep := step_write_idle ho hr hb h
  refine ⟨fun hk => ?_, fun hk => ?_, fun hk => ?_, fun hk => ?_, fun hk => ?_, fun hk => ?_,
    fun i hi hk => ?_, fun i hi hk => ?_, fun hw => ?_⟩
  · rw [hstep, targetAt_low hk (by decide), ← lowHalf_eq_ofNat]; rfl
  · rw [hstep, targetAt_low hk (by decide), ← wordByte0_eq_ofNat, ← wordByte1_eq_ofNat]; rfl
  · rw [hstep, targetAt_low hk (by decide), ← lowHalf_eq_ofNat, ← highHalf_eq_ofNat]; rfl
  · rw [hstep, targetAt_low hk (by decide), ← wordByte0_eq_ofNat, ← wordByte1_eq_ofNat]; rfl
  · rw [hstep, targetAt_low hk (by decide), ← Config.txcap, ← clampLength_eq_ofNat]; rfl
  · rw [hstep, targetAt_low hk (by decide), ← clampLength_eq_ofNat]; rfl
  · rw [targetAt_tx hi hk] at hstep
    exact ⟨_, hstep, rfl, fun k => by rw [← wordByte0_eq_ofNat]; exact Memory.read_write s.txbuf i k _⟩
  · rw [targetAt_rx hcap hi hk] at hstep
    exact ⟨_, hstep, rfl, fun k => by rw [← wordByte0_eq_ofNat]; exact Memory.read_write s.rxbuf i k _⟩
  · rw [hstep]
    exact congrArg _ (writeIdle_of_not_writable (s := { s with agenda := rest }) hw)

/-! ### LOADRX -/

theorem wordByte0_setWidth (b : Byte) : wordByte0 (b.setWidth 32) = b := by
  have hb := b.isLt
  apply BitVec.eq_of_toNat_eq
  rw [wordByte0_toNat, BitVec.toNat_setWidth]
  omega

/-- A host write of a byte to RXBUF[i] stores it (R39). -/
theorem step_write_rxbuf {s : State} {i : Nat} {b : Byte} {rest : List Turn} (hp : s.params.wf = true)
    (hr : s.rst = false) (hb : s.busy = false) (hi : i < s.params.rxcap)
    (h : s.agenda = wrTurn s.params.pbBase (0x1000 + 4 * i) (b.setWidth 32) :: rest) :
    step s = .next { s with agenda := rest, rxbuf := Memory.write s.rxbuf i b } := by
  obtain ⟨_, hcap, _, _⟩ := params_bounds hp
  rw [step_write_idle (by omega) hr hb h, targetAt_rx hcap hi (by omega), State.writeIdle, wordByte0_setWidth]

/-- The byte writes of LOADRX fill RXBUF from entry `i` on and change nothing else (R39, R100). -/
theorem runSteps_byteTurns_rx {rest : List Turn} (bs : List Byte) : ∀ (s : State) (i : Nat),
    s.params.wf = true → s.rst = false → s.busy = false → i + bs.length ≤ s.params.rxcap →
    s.agenda = byteTurns s.params.pbBase 0x1000 i bs ++ rest →
    runSteps bs.length s = .next { s with agenda := rest, rxbuf := Memory.writeRange s.rxbuf i bs } := by
  induction bs with
  | nil =>
    intro s i _ _ _ _ ha
    rw [show rest = s.agenda from ha.symm]
    rfl
  | cons b bs ih =>
    intro s i hp hr hb hlen ha
    simp only [List.length_cons] at hlen
    have hfit : i + 1 + bs.length ≤ s.params.rxcap := by omega
    exact (runSteps_succ (step_write_rxbuf hp hr hb (by omega) ha)).trans (ih _ (i + 1) hp hr hb hfit rfl)

/-- A length of at most RXCAP is stored in RXLEN as it is (R32). -/
theorem clampLength_of_le {n cap : Nat} (h : n ≤ cap) (hcap : cap ≤ 1024) :
    clampLength (BitVec.ofNat 32 n) cap = BitVec.ofNat 16 n := by
  rw [clampLength_eq_ofNat, BitVec.toNat_ofNat]
  congr 1
  omega

/-- A host write to RXLEN stores the clamped length (R32). -/
theorem step_write_rxlen {s : State} {v : Word} {rest : List Turn} (hr : s.rst = false) (hb : s.busy = false)
    (h : s.agenda = wrTurn s.params.pbBase 0x020 v :: rest) :
    step s = .next { s with agenda := rest, rxlen := clampLength v s.params.rxcap } := by
  rw [step_write_idle (by decide) hr hb h, targetAt_low (k := 8) (by decide) (by decide)]
  rfl

/-- Settles O48: the byte writes, then the write of RXLEN. -/
theorem loadRxLoadsBytes : Obligations.LoadRxLoadsBytes := by
  intro s bs rest hp hr hb hlen ha
  obtain ⟨_, hcap, _, _⟩ := params_bounds hp
  simp only [Stmt.turns, List.append_assoc] at ha
  have hbytes := runSteps_byteTurns_rx bs s 0 hp hr hb (by omega) ha
  have hlast := step_write_rxlen (s := { s with
    agenda := wrTurn s.params.pbBase 0x020 (BitVec.ofNat 32 bs.length) :: rest
    rxbuf := Memory.writeRange s.rxbuf 0 bs }) hr hb rfl
  rw [clampLength_of_le hlen hcap] at hlast
  refine ⟨_, (runSteps_add hbytes).trans (runSteps_succ hlast), rfl, ⟨?_, ?_⟩, ?_⟩
  · simp only [BitVec.toNat_ofNat]
    omega
  · exact holds_writeRange s.rxbuf 0 bs
  · exact fun k hk => read_writeRange_outside s.rxbuf 0 k bs (.inr (by omega))

end Sys2Proof.Machine

/-!
PROOFS. The family of spec/10_state.md: what a decode depends on (O28), and what one engine step of a command can do.
-/
namespace Sys2Proof.Machine

section

/-! ### Decoding what was received depends on it alone -/

variable {s s' : State}

theorem State.rxBytes_congr (hl : s.rxlen = s'.rxlen)
    (hr : ∀ k, k < s.rxlen.toNat → Memory.read s.rxbuf k = Memory.read s'.rxbuf k) : s.rxBytes = s'.rxBytes := by
  unfold State.rxBytes
  rw [← hl]
  exact Memory.readRange_congr fun k hk => by rw [Nat.zero_add]; exact hr k hk

/-- The result of a decode, the framer's own CRC apart, depends on the bytes received (R45, R161). -/
theorem State.decodeRx_congr (hl : s.rxlen = s'.rxlen)
    (hr : ∀ k, k < s.rxlen.toNat → Memory.read s.rxbuf k = Memory.read s'.rxbuf k) :
    s.decodeRx.map Prod.fst = s'.decodeRx.map Prod.fst := by
  unfold State.decodeRx
  rw [← State.rxBytes_congr hl hr, ← hl]
  split
  · rfl
  · split
    · cases s.rxBytes <;> rfl
    · rw [← hr 1 (by omega), ← hr 2 (by omega)]
      split
      · split
        · rfl
        · cases s.rxBytes <;> rfl
      · rfl

/-- What a decode result leaves in REGCNT and EXC, and in the registers REGCNT counts, is in the result (R156). -/
theorem State.finishMb_congr (s s' : State) (r : MbResult) :
    (s'.finishMb r).regcnt = (s.finishMb r).regcnt ∧ (s'.finishMb r).exc = (s.finishMb r).exc ∧
      ∀ k, k < (s.finishMb r).regcnt.toNat →
        Memory.read (s'.finishMb r).regs k = Memory.read (s.finishMb r).regs k := by
  have none_counted : ∀ {P : Nat → Prop} (k : Nat), k < (0#16).toNat → P k := fun k hk => absurd hk (Nat.not_lt_zero k)
  cases r with
  | ok regs =>
    refine ⟨rfl, rfl, fun k hk => ?_⟩
    have hcnt : k < (BitVec.ofNat 16 regs.length).toNat := hk
    rw [BitVec.toNat_ofNat] at hcnt
    have hin : 0 ≤ k ∧ k < 0 + regs.length := by omega
    simp only [State.finishMb_regs, State.writeDecode, Memory.read_writeRange, if_pos hin]
  | deviceException code => exact ⟨rfl, rfl, none_counted⟩
  | noResponse => exact ⟨rfl, rfl, none_counted⟩
  | frameCorrupt => exact ⟨rfl, rfl, none_counted⟩
  | frameTooShort => exact ⟨rfl, rfl, none_counted⟩
  | badRequest => exact ⟨rfl, rfl, none_counted⟩
  | transportError => exact ⟨rfl, rfl, none_counted⟩

/-- On equal bytes received two decodes meet an unwritten byte both, or give the same result. -/
theorem State.decodeRx_congr_cases (hl : s.rxlen = s'.rxlen)
    (hr : ∀ k, k < s.rxlen.toNat → Memory.read s.rxbuf k = Memory.read s'.rxbuf k) :
    (s.decodeRx = none ∧ s'.decodeRx = none) ∨
      ∃ r c c', s.decodeRx = some (r, c) ∧ s'.decodeRx = some (r, c') := by
  have hmap := State.decodeRx_congr hl hr
  cases hs : s.decodeRx <;> cases hs' : s'.decodeRx <;> rw [hs, hs'] at hmap
  case none.none => exact .inl ⟨rfl, rfl⟩
  case none.some => cases hmap
  case some.none => cases hmap
  case some.some rc rc' =>
    obtain ⟨r, c⟩ := rc
    obtain ⟨r', c'⟩ := rc'
    obtain rfl : r = r' := Option.some.inj hmap
    exact .inr ⟨r, c, c', rfl, rfl⟩

end

/-- Settles O28. -/
theorem decodeDependsOnlyOnReceivedBytes : Obligations.DecodeDependsOnlyOnReceivedBytes := by
  intro s s' hl hr
  have hdecode := State.decodeRx_congr_cases hl hr
  have hbytes := State.rxBytes_congr hl hr
  refine ⟨fun t ht => ?_, fun t ht => ?_, fun e he => ?_, fun e he => ?_⟩
  · simp only [exec, execMbDecode] at ht ⊢
    rcases hdecode with ⟨hs, _⟩ | ⟨r, c, c', hs, hs'⟩
    · rw [State.finishDecode_fault hs] at ht
      cases ht
    · rw [State.finishDecode_eq hs] at ht
      cases ht
      obtain ⟨hcnt, hexc, hregs⟩ := State.finishMb_congr { s with privCrc := c } { s' with privCrc := c' } r
      exact ⟨_, State.finishDecode_eq hs', by simp only [State.finishMb_result], hcnt, hexc, hregs⟩
  · simp only [exec, execBmsCheck, State.finishBms] at ht ⊢
    rw [← hbytes]
    cases hf : s.rxBytes with
    | none => rw [hf] at ht; cases ht
    | some f => rw [hf] at ht; cases ht; exact ⟨_, rfl, rfl⟩
  · simp only [exec, execMbDecode] at he ⊢
    rcases hdecode with ⟨hs, hs'⟩ | ⟨r, c, _, hs, _⟩
    · rwa [State.finishDecode_fault hs', ← State.finishDecode_fault hs]
    · rw [State.finishDecode_eq hs] at he
      cases he
  · simp only [exec, execBmsCheck, State.finishBms] at he ⊢
    rw [← hbytes]
    cases hf : s.rxBytes with
    | none => rw [hf] at he; exact he
    | some f => rw [hf] at he; cases he

/-! ### What one engine step of a command can do -/

section

variable (s : State)

/-- What a decode result writes is REGS, REGCNT and EXC (R156). -/
theorem State.finishMb_eq_complete (r : MbResult) : ∃ regs n e,
    s.finishMb r = State.complete { s with regs := regs, regcnt := n, exc := e } r.resultCode := by
  cases r <;> exact ⟨_, _, _, rfl⟩

theorem State.finishDecode_cases : s.finishDecode = .fault (.uninitRead .rxbuf) ∨ ∃ c regs n e r,
    s.finishDecode = .next (State.complete { s with privCrc := c, regs := regs, regcnt := n, exc := e } r) := by
  cases hd : s.decodeRx with
  | none => exact .inl (State.finishDecode_fault hd)
  | some rc =>
    obtain ⟨r, c⟩ := rc
    obtain ⟨regs, n, e, hr⟩ := State.finishMb_eq_complete { s with privCrc := c } r
    exact .inr ⟨c, regs, n, e, _, (State.finishDecode_eq hd).trans (congrArg _ hr)⟩

theorem State.finishBms_cases :
    s.finishBms = .fault (.uninitRead .rxbuf) ∨ ∃ r, s.finishBms = .next (s.complete r) := by
  unfold State.finishBms
  cases s.rxBytes with
  | none => exact .inl rfl
  | some f => exact .inr ⟨_, rfl⟩

theorem execCrcTx_cases : execCrcTx s = .fault (.uninitRead .txbuf) ∨
    ∃ crc, execCrcTx s = .next (State.complete { s with crc := crc } .ok) := by
  unfold execCrcTx
  cases s.txBytes with
  | none => exact .inl rfl
  | some f => exact .inr ⟨_, rfl⟩

theorem execCrcChk_cases : execCrcChk s = .fault (.uninitRead .rxbuf) ∨
    ∃ crc ok r, execCrcChk s = .next (State.complete { s with crc := crc, crcOk := ok } r) := by
  unfold execCrcChk
  cases s.rxBytes with
  | none => exact .inl rfl
  | some f => exact .inr ⟨_, _, _, rfl⟩

theorem execMbBuild_cases :
    execMbBuild s = .next (s.buildMb.complete .ok) ∨ execMbBuild s = .next (s.complete .badRequest) := by
  unfold execMbBuild
  split
  · exact .inl rfl
  · exact .inr rfl

theorem execBmsBuild_cases : execBmsBuild s = .fault (.uninitRead .txbuf) ∨
    execBmsBuild s = .next (s.complete .badRequest) ∨
    ∃ p, execBmsBuild s = .next ((s.buildBms p).complete .ok) := by
  unfold execBmsBuild
  split
  · exact .inr (.inl rfl)
  · cases s.payload with
    | none => exact .inl rfl
    | some p => exact .inr (.inr ⟨p, rfl⟩)

/-- MB_READ's build step refuses the request, or goes to the opening clear (R151, R153, R162). -/
theorem mbReadBuild_cases :
    mbReadBuild s = .next (State.complete { s with regcnt := 0#16, exc := 0#8 } .badRequest) ∨
    ∃ fr, mbReadBuild s = .next (State.goto { s.buildMb with rxlen := 0#16 } (.mbRead (.clearIn fr))) := by
  unfold mbReadBuild
  split
  · exact .inl rfl
  · split
    · exact .inl rfl
    · exact .inr ⟨_, rfl⟩

/-- BMS_XCHG's build step refuses the request, faults, or goes to the opening clear (R212). -/
theorem bmsXchgBuild_cases : bmsXchgBuild s = .fault (.uninitRead .txbuf) ∨
    bmsXchgBuild s = .next (State.complete { s with chunks := 0#3 } .badRequest) ∨
    ∃ p fr, bmsXchgBuild s =
      .next (State.goto { s.buildBms p with chunks := 0#3, rxlen := 0#16 } (.bmsXchg (.clearIn fr))) := by
  unfold bmsXchgBuild
  split
  · exact .inr (.inl rfl)
  · cases s.payload with
    | none => exact .inl rfl
    | some p => exact .inr (.inr ⟨p, _, rfl⟩)

/-- A running MB_READ issues one transaction, stores what it read, ends, or faults in its decode (R162). -/
theorem mbReadAt_cases (p : MbPos) : mbReadAt p s = .fault (.uninitRead .rxbuf) ∨
    (∃ tx q, mbReadAt p s = .next ((s.transacted tx).goto (.mbRead q))) ∨
    (∃ bs, mbReadAt p s = .next ((s.storeRx 0 bs).goto (.mbRead .closeIn))) ∨
    ∃ c regs n e r,
      mbReadAt p s = .next (State.complete { s with privCrc := c, regs := regs, regcnt := n, exc := e } r) := by
  have failed : ∃ c regs n e r, Host.Outcome.next (s.finishMb .transportError) =
      (.next (State.complete { s with privCrc := c, regs := regs, regcnt := n, exc := e } r) : StepResult) :=
    ⟨s.privCrc, s.regs, _, _, _, rfl⟩
  have cleared : ∀ tx good, ∃ tx' q, s.transact tx (.mbRead good) (.mbRead .failed) =
      .next ((s.transacted tx').goto (.mbRead q)) := by
    intro tx good
    rw [State.transact_eq]
    split <;> exact ⟨tx, _, rfl⟩
  cases p with
  | clearIn fr => exact .inr (.inl (cleared _ _))
  | clearOut fr => exact .inr (.inl (cleared _ _))
  | write fr => exact .inr (.inl (cleared _ _))
  | read => exact .inr (.inl ⟨_, _, rfl⟩)
  | got r =>
    cases r with
    | err => exact .inr (.inr (.inr failed))
    | ok bs => exact .inr (.inr (.inl ⟨bs, rfl⟩))
  | closeIn => exact .inr (.inl (cleared _ _))
  | failed => exact .inr (.inr (.inr failed))
  | finish => exact (s.finishDecode_cases).imp_right fun h => .inr (.inr h)

/-- A running BMS_XCHG issues one transaction, answered or not, counts a read and may append what it read, ends, or
faults in its check (R212). -/
theorem bmsXchgAt_cases (p : BmsPos) : bmsXchgAt p s = .fault (.uninitRead .rxbuf) ∨
    (∃ tx q, bmsXchgAt p s = .next ((s.transacted tx).goto (.bmsXchg q))) ∨
    (∃ tx q, bmsXchgAt p s = .next ((s.logged tx).goto (.bmsXchg q))) ∨
    (∃ n buf len q, bmsXchgAt p s =
      .next (State.goto { s with chunks := n, rxbuf := buf, rxlen := len } (.bmsXchg q))) ∨
    ∃ n r, bmsXchgAt p s = .next (State.complete { s with chunks := n } r) := by
  have cleared : ∀ tx good, ∃ tx' q, s.transact tx (.bmsXchg good) (.bmsXchg .failed) =
      .next ((s.transacted tx').goto (.bmsXchg q)) := by
    intro tx good
    rw [State.transact_eq]
    split <;> exact ⟨tx, _, rfl⟩
  cases p with
  | clearIn fr => exact .inr (.inl (cleared _ _))
  | clearOut fr => exact .inr (.inl (cleared _ _))
  | write fr => exact .inr (.inl (cleared _ _))
  | settle => exact .inr (.inr (.inl ⟨_, _, rfl⟩))
  | drainWait ix => exact .inr (.inr (.inl ⟨_, _, rfl⟩))
  | read ix => exact .inr (.inl ⟨_, _, rfl⟩)
  | got ix r =>
    cases r with
    | err => exact .inr (.inr (.inr (.inr ⟨_, _, rfl⟩)))
    | ok bs =>
      refine .inr (.inr (.inr (.inl ?_)))
      simp only [bmsXchgAt, State.appendChunk]
      split <;> exact ⟨_, _, _, _, rfl⟩
  | closeIn => exact .inr (.inl (cleared _ _))
  | failed => exact .inr (.inr (.inr (.inr ⟨s.chunks, _, rfl⟩)))
  | finish =>
    rcases s.finishBms_cases with h | ⟨r, h⟩
    · exact .inl h
    · exact .inr (.inr (.inr (.inr ⟨s.chunks, r, h⟩)))

end
end Sys2Proof.Machine

/-!
PROOFS. The family of spec/10_state.md: no flag steers a command (O45).
-/
namespace Sys2Proof.Machine

/-! ### Commands do not see the flags -/

/-- The fields of STATUS (R25). -/
structure Flags where
  busy : Bool
  done : Bool
  crcOk : Bool
  ovr : Bool
  result : BitVec 4

/-- `s` with other flags. -/
def State.setFlags (s : State) (f : Flags) : State :=
  { s with busy := f.busy, done := f.done, crcOk := f.crcOk, ovr := f.ovr, result := f.result }

/-- Where a step of `i` from `s` leads to `t`, the same step from `s` with the flags `f` leads to this state: the flags
that the step writes are those of `t`, the others those of `f` (R37). -/
def State.keepFlags (i : Instr) (f : Flags) (t : State) : State :=
  { t with
    busy := if t.seq = .idle then t.busy else f.busy
    done := if t.seq = .idle then t.done else f.done
    crcOk := if i = .crcChk ∨ i = .clrStatus then t.crcOk else f.crcOk
    ovr := if i = .clrStatus then t.ovr else f.ovr
    result := if t.seq = .idle then t.result else f.result }

/-- An outcome with its next state changed by `g`. -/
def mapNext (g : State → State) : StepResult → StepResult
  | .next t => .next (g t)
  | .fault e => .fault e
  | .refused r => .refused r

/-- Run with other flags, `g` does the same and leaves alone the flags that `i` does not write. -/
def FlagBlind (i : Instr) (g : State → StepResult) : Prop :=
  ∀ (s : State) (f : Flags), g (s.setFlags f) = mapNext (State.keepFlags i f) (g s)

section

variable {i : Instr} {s : State} {f : Flags}

theorem State.keepFlags_complete (hi : i ≠ .crcChk ∧ i ≠ .clrStatus) (u : State) (r : ResultCode) :
    (u.complete r).keepFlags i f = (u.setFlags f).complete r := by
  simp only [State.keepFlags, State.complete, State.setFlags, if_true, hi, or_self, if_false]

theorem State.keepFlags_goto (hi : i ≠ .crcChk ∧ i ≠ .clrStatus) (u : State) {q : Seq} (hq : q ≠ .idle) :
    (u.goto q).keepFlags i f = (u.setFlags f).goto q := by
  simp only [State.keepFlags, State.goto, State.setFlags, hq, hi, or_self, if_false]

/-- A step that ends the command with a result that no flag steers. -/
theorem next_complete_setFlags (hi : i ≠ .crcChk ∧ i ≠ .clrStatus) (u : State) (r : ResultCode) :
    .next ((u.setFlags f).complete r) = mapNext (State.keepFlags i f) (.next (u.complete r)) :=
  congrArg _ (State.keepFlags_complete hi u r).symm

/-- A step after which the command goes on. -/
theorem next_goto_setFlags (hi : i ≠ .crcChk ∧ i ≠ .clrStatus) (u : State) {q : Seq} (hq : q ≠ .idle) :
    .next ((u.setFlags f).goto q) = mapNext (State.keepFlags i f) (.next (u.goto q)) :=
  congrArg _ (State.keepFlags_goto hi u hq).symm

theorem next_finishMb_setFlags (hi : i ≠ .crcChk ∧ i ≠ .clrStatus) (u : State) (r : MbResult) :
    .next ((u.setFlags f).finishMb r) = mapNext (State.keepFlags i f) (.next (u.finishMb r)) := by
  have hw : (u.setFlags f).writeDecode r = (u.writeDecode r).setFlags f := by cases r <;> rfl
  unfold State.finishMb
  rw [hw]
  exact next_complete_setFlags hi (u.writeDecode r) _

theorem FlagBlind.finishDecode (hi : i ≠ .crcChk ∧ i ≠ .clrStatus) : FlagBlind i State.finishDecode := by
  intro s f
  have hd : (s.setFlags f).decodeRx = s.decodeRx := rfl
  unfold State.finishDecode
  rw [hd]
  cases s.decodeRx with
  | none => rfl
  | some rc => exact next_finishMb_setFlags hi { s with privCrc := rc.2 } rc.1

theorem FlagBlind.finishBms (hi : i ≠ .crcChk ∧ i ≠ .clrStatus) : FlagBlind i State.finishBms := by
  intro s f
  have hb : (s.setFlags f).rxBytes = s.rxBytes := rfl
  unfold State.finishBms
  rw [hb]
  cases s.rxBytes with
  | none => rfl
  | some bs => exact next_complete_setFlags hi s _

theorem FlagBlind.transact (hi : i ≠ .crcChk ∧ i ≠ .clrStatus) (tx : Transaction) {good bad : Seq} (hg : good ≠ .idle)
    (hb : bad ≠ .idle) : FlagBlind i (fun s => s.transact tx good bad) := by
  intro s f
  refine next_goto_setFlags hi (s.transacted tx) ?_
  split
  · exact hb
  · exact hg

theorem FlagBlind.execCrcTx : FlagBlind .crcTx execCrcTx := by
  intro s f
  have hb : (s.setFlags f).txBytes = s.txBytes := rfl
  unfold Machine.execCrcTx
  rw [hb]
  cases s.txBytes with
  | none => rfl
  | some bs => exact next_complete_setFlags (by decide) { s with crc := crc16 bs } _

theorem FlagBlind.execCrcChk : FlagBlind .crcChk execCrcChk := by
  intro s f
  have hb : (s.setFlags f).rxBytes = s.rxBytes := rfl
  unfold Machine.execCrcChk
  rw [hb]
  cases s.rxBytes with
  | none => rfl
  | some bs => rfl

theorem FlagBlind.execMbBuild : FlagBlind .mbBuild execMbBuild := by
  intro s f
  unfold Machine.execMbBuild
  by_cases hl : mbLegal s.latch.func s.latch.count = true
  · rw [if_pos hl]
    exact (if_pos hl).trans (next_complete_setFlags (by decide) s.buildMb _)
  · rw [if_neg hl]
    exact (if_neg hl).trans (next_complete_setFlags (by decide) s _)

theorem FlagBlind.execBmsBuild : FlagBlind .bmsBuild execBmsBuild := by
  intro s f
  have hp : (s.setFlags f).payload = s.payload := rfl
  have hl : (s.setFlags f).latch = s.latch := rfl
  unfold Machine.execBmsBuild
  rw [hp, hl]
  split
  · exact next_complete_setFlags (by decide) s _
  · cases s.payload with
    | none => rfl
    | some p => exact next_complete_setFlags (by decide) (s.buildBms p) _

theorem FlagBlind.mbReadBuild : FlagBlind .mbRead mbReadBuild := by
  intro s f
  have hp : (s.setFlags f).params = s.params := rfl
  have hl : (s.setFlags f).latch = s.latch := rfl
  unfold Machine.mbReadBuild
  rw [hp, hl]
  split
  · exact next_finishMb_setFlags (by decide) s _
  · split
    · exact next_finishMb_setFlags (by decide) s _
    · exact next_goto_setFlags (by decide) { s.buildMb with rxlen := 0#16 } Seq.noConfusion

theorem FlagBlind.mbReadAt (p : MbPos) : FlagBlind .mbRead (mbReadAt p) := by
  intro s f
  cases p with
  | clearIn fr => exact FlagBlind.transact (by decide) _ Seq.noConfusion Seq.noConfusion s f
  | clearOut fr => exact FlagBlind.transact (by decide) _ Seq.noConfusion Seq.noConfusion s f
  | write fr => exact FlagBlind.transact (by decide) _ Seq.noConfusion Seq.noConfusion s f
  | read => exact next_goto_setFlags (by decide) (s.transacted _) Seq.noConfusion
  | got r =>
    cases r with
    | err => exact next_finishMb_setFlags (by decide) s _
    | ok bs => exact next_goto_setFlags (by decide) (s.storeRx 0 bs) Seq.noConfusion
  | closeIn => exact FlagBlind.transact (by decide) _ Seq.noConfusion Seq.noConfusion s f
  | failed => exact next_finishMb_setFlags (by decide) s _
  | finish => exact FlagBlind.finishDecode (by decide) s f

theorem FlagBlind.bmsXchgBuild : FlagBlind .bmsXchg bmsXchgBuild := by
  intro s f
  have hp : (s.setFlags f).payload = s.payload := rfl
  have hl : (s.setFlags f).latch = s.latch := rfl
  unfold Machine.bmsXchgBuild
  rw [hp, hl]
  split
  · exact next_complete_setFlags (by decide) { s with chunks := 0#3 } _
  · cases s.payload with
    | none => rfl
    | some p =>
      exact next_goto_setFlags (by decide) { s.buildBms p with chunks := 0#3, rxlen := 0#16 } Seq.noConfusion

theorem FlagBlind.appendChunk (ix : ReadIx) (bs : List Byte) :
    FlagBlind .bmsXchg (fun s => .next (s.appendChunk ix bs)) := by
  intro s f
  simp only [State.appendChunk]
  split
  · exact next_goto_setFlags (by decide) s Seq.noConfusion
  · exact next_goto_setFlags (by decide) (s.storeRx s.rxlen.toNat bs) Seq.noConfusion

theorem FlagBlind.bmsXchgAt (p : BmsPos) : FlagBlind .bmsXchg (bmsXchgAt p) := by
  intro s f
  cases p with
  | clearIn fr => exact FlagBlind.transact (by decide) _ Seq.noConfusion Seq.noConfusion s f
  | clearOut fr => exact FlagBlind.transact (by decide) _ Seq.noConfusion Seq.noConfusion s f
  | write fr => exact FlagBlind.transact (by decide) _ Seq.noConfusion Seq.noConfusion s f
  | settle => exact next_goto_setFlags (by decide) (s.logged _) Seq.noConfusion
  | drainWait ix => exact next_goto_setFlags (by decide) (s.logged _) Seq.noConfusion
  | read ix => exact next_goto_setFlags (by decide) (s.transacted _) Seq.noConfusion
  | got ix r =>
    cases r with
    | err => exact next_complete_setFlags (by decide) { s with chunks := s.chunks + 1#3 } _
    | ok bs => exact FlagBlind.appendChunk ix bs { s with chunks := s.chunks + 1#3 } f
  | closeIn => exact FlagBlind.transact (by decide) _ Seq.noConfusion Seq.noConfusion s f
  | failed => exact next_complete_setFlags (by decide) s _
  | finish => exact FlagBlind.finishBms (by decide) s f

/-- No command chooses its behaviour by a flag (R37). -/
theorem exec_flagBlind (i : Instr) : FlagBlind i (exec i) := by
  intro s f
  have hq : (s.setFlags f).seq = s.seq := rfl
  cases i with
  | crcInit => exact next_complete_setFlags (by decide) { s with crc := 0xFFFF#16 } _
  | crcByte arg => exact next_complete_setFlags (i := .crcByte arg) ⟨nofun, nofun⟩ { s with crc := crcStep s.crc arg } _
  | crcTx => exact FlagBlind.execCrcTx s f
  | crcChk => exact FlagBlind.execCrcChk s f
  | mbBuild => exact FlagBlind.execMbBuild s f
  | mbDecode => exact FlagBlind.finishDecode (by decide) s f
  | mbRead =>
    simp only [exec, execMbRead, hq]
    cases s.seq with
    | mbRead p => exact FlagBlind.mbReadAt p s f
    | _ => exact FlagBlind.mbReadBuild s f
  | bmsBuild => exact FlagBlind.execBmsBuild s f
  | bmsCheck => exact FlagBlind.finishBms (by decide) s f
  | bmsXchg =>
    simp only [exec, execBmsXchg, hq]
    cases s.seq with
    | bmsXchg p => exact FlagBlind.bmsXchgAt p s f
    | _ => exact FlagBlind.bmsXchgBuild s f
  | clrStatus => rfl

/-- The flags that a step does not write keep their value: the step from `s` is the step with the flags of `s`. -/
theorem exec_keeps_flags {t : State} (ht : exec i s = .next t) :
    (t.seq ≠ .idle → t.busy = s.busy ∧ t.done = s.done ∧ t.result = s.result) ∧
    (i ≠ .crcChk → i ≠ .clrStatus → t.crcOk = s.crcOk) ∧ (i ≠ .clrStatus → t.ovr = s.ovr) := by
  have hown := exec_flagBlind i s ⟨s.busy, s.done, s.crcOk, s.ovr, s.result⟩
  rw [ht] at hown
  have hkeep : t = t.keepFlags i ⟨s.busy, s.done, s.crcOk, s.ovr, s.result⟩ :=
    Host.Outcome.next.inj (ht.symm.trans hown)
  refine ⟨fun hq => ⟨?_, ?_, ?_⟩, fun hchk hclr => ?_, fun hclr => ?_⟩
  · exact (congrArg State.busy hkeep).trans (if_neg hq)
  · exact (congrArg State.done hkeep).trans (if_neg hq)
  · exact (congrArg State.result hkeep).trans (if_neg hq)
  · exact (congrArg State.crcOk hkeep).trans (if_neg (not_or.2 ⟨hchk, hclr⟩))
  · exact (congrArg State.ovr hkeep).trans (if_neg hclr)

/-- An engine step of a command faults with UninitRead, or leads on; where it ends the command BUSY falls and, but for
CLR_STATUS, DONE rises (R41, R251, R254). -/
def LeadsOn (i : Instr) (o : StepResult) : Prop :=
  (∃ a, o = .fault (.uninitRead a)) ∨
    ∃ t, o = .next t ∧ (t.seq = .idle → t.busy = false ∧ (i ≠ .clrStatus → t.done = true))

theorem LeadsOn.of_fault {o : StepResult} {a : DataArray} (h : o = .fault (.uninitRead a)) : LeadsOn i o :=
  .inl ⟨a, h⟩

theorem LeadsOn.of_complete {o : StepResult} {u : State} {r : ResultCode} (h : o = .next (u.complete r)) :
    LeadsOn i o :=
  .inr ⟨_, h, fun _ => ⟨rfl, fun _ => rfl⟩⟩

theorem LeadsOn.of_goto {o : StepResult} {u : State} {q : Seq} (h : o = .next (u.goto q)) (hq : q ≠ .idle) :
    LeadsOn i o :=
  .inr ⟨_, h, fun hidle => absurd hidle hq⟩

theorem mbReadBuild_leadsOn (s : State) : LeadsOn i (mbReadBuild s) := by
  rcases mbReadBuild_cases s with h | ⟨_, h⟩
  · exact .of_complete h
  · exact .of_goto h Seq.noConfusion

theorem mbReadAt_leadsOn (p : MbPos) (s : State) : LeadsOn i (mbReadAt p s) := by
  rcases mbReadAt_cases s p with h | ⟨_, _, h⟩ | ⟨_, h⟩ | ⟨_, _, _, _, _, h⟩
  · exact .of_fault h
  · exact .of_goto h Seq.noConfusion
  · exact .of_goto h Seq.noConfusion
  · exact .of_complete h

theorem bmsXchgBuild_leadsOn (s : State) : LeadsOn i (bmsXchgBuild s) := by
  rcases bmsXchgBuild_cases s with h | h | ⟨_, _, h⟩
  · exact .of_fault h
  · exact .of_complete h
  · exact .of_goto h Seq.noConfusion

theorem bmsXchgAt_leadsOn (p : BmsPos) (s : State) : LeadsOn i (bmsXchgAt p s) := by
  rcases bmsXchgAt_cases s p with h | ⟨_, _, h⟩ | ⟨_, _, h⟩ | ⟨_, _, _, _, h⟩ | ⟨_, _, h⟩
  · exact .of_fault h
  · exact .of_goto h Seq.noConfusion
  · exact .of_goto h Seq.noConfusion
  · exact .of_goto h Seq.noConfusion
  · exact .of_complete h

theorem exec_leadsOn (i : Instr) (s : State) : LeadsOn i (exec i s) := by
  cases i with
  | crcInit => exact .of_complete rfl
  | crcByte arg => exact .of_complete rfl
  | crcTx =>
    rcases execCrcTx_cases s with h | ⟨_, h⟩
    · exact .of_fault h
    · exact .of_complete h
  | crcChk =>
    rcases execCrcChk_cases s with h | ⟨_, _, _, h⟩
    · exact .of_fault h
    · exact .of_complete h
  | mbBuild =>
    rcases execMbBuild_cases s with h | h
    · exact .of_complete h
    · exact .of_complete h
  | mbDecode =>
    rcases s.finishDecode_cases with h | ⟨_, _, _, _, _, h⟩
    · exact .of_fault h
    · exact .of_complete h
  | mbRead =>
    simp only [exec, execMbRead]
    cases s.seq with
    | mbRead p => exact mbReadAt_leadsOn p s
    | _ => exact mbReadBuild_leadsOn s
  | bmsBuild =>
    rcases execBmsBuild_cases s with h | h | ⟨_, h⟩
    · exact .of_fault h
    · exact .of_complete h
    · exact .of_complete h
  | bmsCheck =>
    rcases s.finishBms_cases with h | ⟨_, h⟩
    · exact .of_fault h
    · exact .of_complete h
  | bmsXchg =>
    simp only [exec, execBmsXchg]
    cases s.seq with
    | bmsXchg p => exact bmsXchgAt_leadsOn p s
    | _ => exact bmsXchgBuild_leadsOn s
  | clrStatus => exact .inr ⟨_, rfl, fun _ => ⟨rfl, fun h => absurd rfl h⟩⟩

/-- Settles O45. -/
theorem flagsDoNotSteerCommands : Obligations.FlagsDoNotSteerCommands := by
  intro i s b d c o r
  have hblind := exec_flagBlind i s ⟨b, d, c, o, r⟩
  refine ⟨fun t ht => ?_, fun t ht => exec_keeps_flags ht, fun e he => ?_, fun e he => ?_⟩
  · rw [ht] at hblind
    exact hblind
  · rw [he] at hblind
    exact hblind
  · rcases exec_leadsOn i s with ⟨a, ha⟩ | ⟨t, ht, _⟩
    · rw [ha] at he; cases he
    · rw [ht] at he; cases he

end
end Sys2Proof.Machine

/-!
PROOFS. The family of spec/10_state.md: every command completes (O43), by a bound on the steps and the transactions left
at each program point.
-/
namespace Sys2Proof.Machine

/-! ### What is left of an exchange -/

/-- The engine steps that a running MB_READ still takes, at most (R162). -/
@[simp] def MbPos.stepsLeft : MbPos → Nat
  | .clearIn _ => 7
  | .clearOut _ => 6
  | .write _ => 5
  | .read => 4
  | .got _ => 3
  | .closeIn => 2
  | .failed => 1
  | .finish => 1

/-- The transactions that a running MB_READ still issues, at most (R80). -/
@[simp] def MbPos.transactionsLeft : MbPos → Nat
  | .clearIn _ => 5
  | .clearOut _ => 4
  | .write _ => 3
  | .read => 2
  | .got _ => 1
  | .closeIn => 1
  | .failed => 0
  | .finish => 0

/-- The engine steps that a running BMS_XCHG still takes, at most: three for each drain read to come (R204, R212). -/
@[simp] def BmsPos.stepsLeft : BmsPos → Nat
  | .clearIn _ => 17
  | .clearOut _ => 16
  | .write _ => 15
  | .settle => 14
  | .drainWait ix => 5 + 3 * (3 - ix.index)
  | .read ix => 4 + 3 * (3 - ix.index)
  | .got ix _ => 3 + 3 * (3 - ix.index)
  | .closeIn => 2
  | .failed => 1
  | .finish => 1

/-- The transactions that a running BMS_XCHG still issues, at most: a delay and a read for each drain read to come (R80,
R204). -/
@[simp] def BmsPos.transactionsLeft : BmsPos → Nat
  | .clearIn _ => 12
  | .clearOut _ => 11
  | .write _ => 10
  | .settle => 9
  | .drainWait ix => 3 + 2 * (3 - ix.index)
  | .read ix => 2 + 2 * (3 - ix.index)
  | .got ix _ => 1 + 2 * (3 - ix.index)
  | .closeIn => 1
  | .failed => 0
  | .finish => 0

/-- The engine steps to IDLE from inside an exchange, at most. -/
@[simp] def Seq.stepsLeft : Seq → Nat
  | .idle => 0
  | .start _ => 0
  | .mbRead p => p.stepsLeft
  | .bmsXchg p => p.stepsLeft

/-- The transactions issued before IDLE from inside an exchange, at most. -/
@[simp] def Seq.transactionsLeft : Seq → Nat
  | .idle => 0
  | .start _ => 0
  | .mbRead p => p.transactionsLeft
  | .bmsXchg p => p.transactionsLeft

/-- `q'` is nearer to IDLE than `q`, with `k` transactions issued on the way. -/
def Seq.Nearer (k : Nat) (q q' : Seq) : Prop :=
  q'.stepsLeft < q.stepsLeft ∧ k + q'.transactionsLeft ≤ q.transactionsLeft ∧ ∀ w, q' ≠ .start w

/-- From `s`, inside an exchange, the engine alone has come to `t`: nearer to IDLE, within the transactions left. -/
structure Advances (s t : State) : Prop where
  alone : t.engineAlone
  nearer : ∃ l, t.port = s.port ++ l ∧ Seq.Nearer l.length s.seq t.seq

/-- From `s` the engine alone comes to IDLE in at most `n` steps and issues at most `k` transactions. -/
def CompletesWithin (n k : Nat) (s : State) : Prop :=
  ∃ m t l, m ≤ n ∧ runSteps m s = .next t ∧ t.seq = .idle ∧ t.busy = false ∧ t.port = s.port ++ l ∧ l.length ≤ k

section

variable {s t u : State} {n k : Nat}

theorem CompletesWithin.of_idle (hq : s.seq = .idle) (hb : s.busy = false) : CompletesWithin n k s :=
  ⟨0, s, [], Nat.zero_le n, rfl, hq, hb, (List.append_nil _).symm, Nat.zero_le k⟩

theorem CompletesWithin.step {l : List Transaction} (hs : step s = .next t) (hl : t.port = s.port ++ l)
    (h : CompletesWithin n k t) : CompletesWithin (n + 1) (l.length + k) s := by
  obtain ⟨m, v, l', hm, hrun, hq, hb, hl', hk⟩ := h
  refine ⟨m + 1, v, l ++ l', by omega, (runSteps_succ hs).trans hrun, hq, hb, ?_, ?_⟩
  · rw [hl', hl, List.append_assoc]
  · rw [List.length_append]
    omega

theorem CompletesWithin.mono {n' k' : Nat} (hn : n ≤ n') (hk : k ≤ k') (h : CompletesWithin n k s) :
    CompletesWithin n' k' s := by
  obtain ⟨m, v, l, hm, hrun, hq, hb, hl, hlen⟩ := h
  exact ⟨m, v, l, hm.trans hn, hrun, hq, hb, hl, hlen.trans hk⟩

theorem CompletesWithin.step_of_port_eq (hs : Machine.step s = .next t) (hp : t.port = s.port)
    (h : CompletesWithin n k t) : CompletesWithin (n + 1) k s :=
  (CompletesWithin.step (l := []) hs (hp.trans (List.append_nil _).symm) h).mono le_rfl (Nat.zero_add k).le

theorem MbPos.stepsLeft_pos (p : MbPos) : 0 < p.stepsLeft := by cases p <;> simp [MbPos.stepsLeft]

theorem BmsPos.stepsLeft_pos (p : BmsPos) : 0 < p.stepsLeft := by cases p <;> simp [BmsPos.stepsLeft]

/-! ### The steps of a running exchange advance -/

theorem Advances.complete {r : ResultCode} (ha : u.engineAlone) (hp : u.port = s.port) (hs : 0 < s.seq.stepsLeft) :
    Advances s (u.complete r) :=
  ⟨ha, [], by simpa using hp, hs, Nat.zero_le _, nofun⟩

theorem Advances.finishMb {r : MbResult} (ha : u.engineAlone) (hp : u.port = s.port) (hs : 0 < s.seq.stepsLeft) :
    Advances s (u.finishMb r) := by
  obtain ⟨regs, n, e, hr⟩ := u.finishMb_eq_complete r
  rw [hr]
  exact Advances.complete (u := { u with regs := regs, regcnt := n, exc := e }) ha hp hs

/-- The command goes on without a transaction. -/
theorem Advances.goto {q : Seq} (ha : u.engineAlone) (hp : u.port = s.port) (hq : s.seq.Nearer 0 q) :
    Advances s (u.goto q) :=
  ⟨ha, [], by simpa using hp, hq⟩

/-- The command goes on after a transaction. -/
theorem Advances.transacted {q : Seq} (ha : s.engineAlone) (tx : Transaction) (hq : s.seq.Nearer 1 q) :
    Advances s ((s.transacted tx).goto q) :=
  ⟨ha, [tx], rfl, hq⟩

/-- The command goes on after a delay. -/
theorem Advances.logged {q : Seq} (ha : s.engineAlone) (tx : Transaction) (hq : s.seq.Nearer 1 q) :
    Advances s ((s.logged tx).goto q) :=
  ⟨ha, [tx], rfl, hq⟩

/-- A clear or a write advances whatever the answer is. -/
theorem advances_transact {tx : Transaction} {good bad : Seq} (ha : s.engineAlone) (hg : s.seq.Nearer 1 good)
    (hb : s.seq.Nearer 1 bad) : ∃ t, s.transact tx good bad = .next t ∧ Advances s t := by
  refine ⟨_, State.transact_eq s tx good bad, Advances.transacted ha tx ?_⟩
  split
  · exact hb
  · exact hg

/-- Every program point of MB_READ leads nearer to IDLE (R162). -/
theorem mbReadAt_advances {p : MbPos} (ha : s.engineAlone) (hs : s.seq = .mbRead p) (hok : s.mbPosOk p) :
    ∃ t, mbReadAt p s = .next t ∧ Advances s t := by
  have hpos : 0 < s.seq.stepsLeft := by rw [hs]; exact p.stepsLeft_pos
  cases p with
  | clearIn fr => exact advances_transact ha (by simp [Seq.Nearer, hs]) (by simp [Seq.Nearer, hs])
  | clearOut fr => exact advances_transact ha (by simp [Seq.Nearer, hs]) (by simp [Seq.Nearer, hs])
  | write fr => exact advances_transact ha (by simp [Seq.Nearer, hs]) (by simp [Seq.Nearer, hs])
  | read => exact ⟨_, rfl, Advances.transacted ha _ (by simp [Seq.Nearer, hs])⟩
  | got r =>
    cases r with
    | err => exact ⟨_, rfl, Advances.finishMb ha rfl hpos⟩
    | ok bs => exact ⟨_, rfl, Advances.goto (u := s.storeRx 0 bs) ha rfl (by simp [Seq.Nearer, hs])⟩
  | closeIn => exact advances_transact ha (by simp [Seq.Nearer, hs]) (by simp [Seq.Nearer, hs])
  | failed => exact ⟨_, rfl, Advances.finishMb ha rfl hpos⟩
  | finish =>
    obtain ⟨f, hf⟩ := State.rxWritten_iff.1 hok
    exact ⟨_, State.finishDecode_eq (State.decodeRx_of_rxIs hf),
      Advances.finishMb (u := { s with privCrc := _ }) ha rfl hpos⟩

/-- The step after a read answered Ok leads to the closing clear or to the next drain read (R204, R205). -/
theorem appendChunk_advances {ix : ReadIx} {bs : List Byte} (ha : u.engineAlone) (hp : u.port = s.port)
    (hs : s.seq = .bmsXchg (.got ix (.ok bs))) : Advances s (u.appendChunk ix bs) := by
  have close : s.seq.Nearer 0 (.bmsXchg .closeIn) := by
    simp only [Seq.Nearer, hs, Seq.stepsLeft, BmsPos.stepsLeft, Seq.transactionsLeft, BmsPos.transactionsLeft]
    exact ⟨by omega, by omega, nofun⟩
  unfold State.appendChunk
  split
  · exact Advances.goto ha hp close
  · rcases (u.storeRx u.rxlen.toNat bs).afterRead_cases ix with hclose | ⟨next, hnext, _, hdrain⟩
    · rw [hclose]
      exact Advances.goto (u := u.storeRx _ bs) ha hp close
    · rw [hdrain]
      have hix := ReadIx.index_of_following hnext
      have hle := next.index_le
      refine Advances.goto (u := u.storeRx _ bs) ha hp ?_
      simp only [Seq.Nearer, hs, Seq.stepsLeft, BmsPos.stepsLeft, Seq.transactionsLeft, BmsPos.transactionsLeft]
      exact ⟨by omega, by omega, nofun⟩

/-- Every program point of BMS_XCHG leads nearer to IDLE (R204, R212). -/
theorem bmsXchgAt_advances {p : BmsPos} (ha : s.engineAlone) (hs : s.seq = .bmsXchg p) (hok : s.bmsPosOk p) :
    ∃ t, bmsXchgAt p s = .next t ∧ Advances s t := by
  have hpos : 0 < s.seq.stepsLeft := by rw [hs]; exact p.stepsLeft_pos
  cases p with
  | clearIn fr => exact advances_transact ha (by simp [Seq.Nearer, hs]) (by simp [Seq.Nearer, hs])
  | clearOut fr => exact advances_transact ha (by simp [Seq.Nearer, hs]) (by simp [Seq.Nearer, hs])
  | write fr => exact advances_transact ha (by simp [Seq.Nearer, hs]) (by simp [Seq.Nearer, hs])
  | settle => exact ⟨_, rfl, Advances.logged ha _ (by simp [Seq.Nearer, hs, ReadIx.index])⟩
  | drainWait ix =>
    refine ⟨_, rfl, Advances.logged ha _ ?_⟩
    simp only [Seq.Nearer, hs, Seq.stepsLeft, BmsPos.stepsLeft, Seq.transactionsLeft, BmsPos.transactionsLeft]
    exact ⟨by omega, by omega, nofun⟩
  | read ix =>
    refine ⟨_, rfl, Advances.transacted ha _ ?_⟩
    simp only [Seq.Nearer, hs, Seq.stepsLeft, BmsPos.stepsLeft, Seq.transactionsLeft, BmsPos.transactionsLeft]
    exact ⟨by omega, by omega, nofun⟩
  | got ix r =>
    cases r with
    | err => exact ⟨_, rfl, Advances.complete (u := { s with chunks := _ }) ha rfl hpos⟩
    | ok bs => exact ⟨_, rfl, appendChunk_advances (u := { s with chunks := _ }) ha rfl hs⟩
  | closeIn => exact advances_transact ha (by simp [Seq.Nearer, hs]) (by simp [Seq.Nearer, hs])
  | failed => exact ⟨_, rfl, Advances.complete ha rfl hpos⟩
  | finish =>
    obtain ⟨f, hf⟩ := State.rxWritten_iff.1 hok
    exact ⟨_, State.finishBms_eq hf, Advances.complete ha rfl hpos⟩

/-- A step inside an exchange, with the engine alone, advances it. -/
theorem step_advances (h : s.Inv) (ha : s.engineAlone) (hstart : ∀ w, s.seq ≠ .start w) (hidle : s.seq ≠ .idle) :
    ∃ t, step s = .next t ∧ Advances s t := by
  cases hs : s.seq with
  | idle => exact absurd hs hidle
  | start w => exact absurd hs (hstart w)
  | mbRead p => rw [step_mbReadAt ha hs]; exact mbReadAt_advances ha hs (h.mbPosOk_of_seq hs)
  | bmsXchg p => rw [step_bmsXchgAt ha hs]; exact bmsXchgAt_advances ha hs (h.bmsPosOk_of_seq hs)

/-- A running exchange comes to IDLE within the steps and transactions left. -/
theorem exchange_completes : ∀ (n : Nat) (s : State), s.Inv → s.engineAlone → (∀ w, s.seq ≠ .start w) →
    s.seq.stepsLeft ≤ n → CompletesWithin n s.seq.transactionsLeft s := by
  intro n
  induction n with
  | zero =>
    intro s h ha hstart hn
    by_cases hidle : s.seq = .idle
    · exact .of_idle hidle (h.busy_iff.2 hidle)
    · obtain ⟨t, _, _, _, _, hnear, _⟩ := step_advances h ha hstart hidle
      omega
  | succ n ih =>
    intro s h ha hstart hn
    by_cases hidle : s.seq = .idle
    · exact .of_idle hidle (h.busy_iff.2 hidle)
    · obtain ⟨t, ht, hat, l, hl, hnear, hleft, hstart'⟩ := step_advances h ha hstart hidle
      have hrest := ih t (stepKeepsInvariant s t h ht) hat hstart' (by omega)
      exact (CompletesWithin.step ht hl hrest).mono le_rfl hleft

/-! ### The first engine step of a command -/

/-- The first engine step of `i` faults with UninitRead, or ends the command, or leads to the opening clear of an
exchange; it issues no transaction (R162, R212, R254). -/
def Begins (i : Instr) (s : State) (o : StepResult) : Prop :=
  (∃ a, o = .fault (.uninitRead a)) ∨
    ∃ t, o = .next t ∧ t.engineAlone ∧ t.port = s.port ∧
      (t.seq = .idle ∨ (i = .mbRead ∧ ∃ fr, t.seq = .mbRead (.clearIn fr)) ∨
        (i = .bmsXchg ∧ ∃ fr, t.seq = .bmsXchg (.clearIn fr)))

variable {i : Instr} {o : StepResult}

theorem Begins.of_fault {a : DataArray} (h : o = .fault (.uninitRead a)) : Begins i s o := .inl ⟨a, h⟩

theorem Begins.of_complete {r : ResultCode} (h : o = .next (u.complete r)) (ha : u.engineAlone)
    (hp : u.port = s.port) : Begins i s o :=
  .inr ⟨_, h, ha, hp, .inl rfl⟩

theorem exec_begins {w : Word} (i : Instr) (ha : s.engineAlone) (hs : s.seq = .start w) : Begins i s (exec i s) := by
  cases i with
  | crcInit => exact .of_complete (u := { s with crc := _ }) rfl ha rfl
  | crcByte arg => exact .of_complete (u := { s with crc := _ }) rfl ha rfl
  | crcTx =>
    rcases execCrcTx_cases s with h | ⟨_, h⟩
    · exact .of_fault h
    · exact .of_complete h ha rfl
  | crcChk =>
    rcases execCrcChk_cases s with h | ⟨_, _, _, h⟩
    · exact .of_fault h
    · exact .of_complete h ha rfl
  | mbBuild =>
    rcases execMbBuild_cases s with h | h
    · exact .of_complete h ha rfl
    · exact .of_complete h ha rfl
  | mbDecode =>
    rcases s.finishDecode_cases with h | ⟨_, _, _, _, _, h⟩
    · exact .of_fault h
    · exact .of_complete h ha rfl
  | mbRead =>
    simp only [exec, execMbRead, hs]
    rcases mbReadBuild_cases s with h | ⟨fr, h⟩
    · exact .of_complete h ha rfl
    · exact .inr ⟨_, h, ha, rfl, .inr (.inl ⟨rfl, fr, rfl⟩)⟩
  | bmsBuild =>
    rcases execBmsBuild_cases s with h | h | ⟨_, h⟩
    · exact .of_fault h
    · exact .of_complete h ha rfl
    · exact .of_complete h ha rfl
  | bmsCheck =>
    rcases s.finishBms_cases with h | ⟨_, h⟩
    · exact .of_fault h
    · exact .of_complete h ha rfl
  | bmsXchg =>
    simp only [exec, execBmsXchg, hs]
    rcases bmsXchgBuild_cases s with h | h | ⟨_, fr, h⟩
    · exact .of_fault h
    · exact .of_complete h ha rfl
    · exact .inr ⟨_, h, ha, rfl, .inr (.inr ⟨rfl, fr, rfl⟩)⟩
  | clrStatus => exact .inr ⟨_, rfl, ha, rfl, .inl rfl⟩

/-- The engine steps a command takes, at most (R254, log 7). -/
def commandSteps : Instr → Nat
  | .mbRead => 8
  | .bmsXchg => 18
  | _ => 1

/-- The transactions a command issues, at most (R254). -/
def commandTransactions : Instr → Nat
  | .mbRead => 5
  | .bmsXchg => 12
  | _ => 0

theorem commandSteps_pos (i : Instr) : 1 ≤ commandSteps i := by cases i <;> simp [commandSteps]

/-- From its start a command faults at once, or completes within its steps and transactions. -/
theorem command_completes {w : Word} (h : s.Inv) (ha : s.engineAlone) (hs : s.seq = .start w)
    (hd : decode w = .ok i) :
    (∃ a, step s = .fault (.uninitRead a)) ∨ CompletesWithin (commandSteps i) (commandTransactions i) s := by
  have hstep : step s = exec i s := by rw [step_engineAlone ha, State.fetch_of_start hs, hd]
  rcases exec_begins i ha hs with ⟨a, he⟩ | ⟨t, ht, hat, hp, hq⟩
  · exact .inl ⟨a, hstep.trans he⟩
  · have hst : step s = .next t := hstep.trans ht
    have hinv : t.Inv := stepKeepsInvariant s t h hst
    have first : ∀ {n k : Nat}, CompletesWithin n k t → CompletesWithin (n + 1) k s := .step_of_port_eq hst hp
    rcases hq with hidle | ⟨rfl, fr, hfr⟩ | ⟨rfl, fr, hfr⟩
    · have hc : CompletesWithin 0 0 t := .of_idle hidle (hinv.busy_iff.2 hidle)
      exact .inr ((first hc).mono (commandSteps_pos i) (Nat.zero_le _))
    · have hc := exchange_completes 7 t hinv hat (by simp [hfr]) (by simp [hfr])
      rw [hfr] at hc
      exact .inr (first hc)
    · have hc := exchange_completes 17 t hinv hat (by simp [hfr]) (by simp [hfr])
      rw [hfr] at hc
      exact .inr (first hc)

/-- An OP outside the map completes in one step (R252). -/
theorem illegal_completes {w : Word} {e : DecodeError} (ha : s.engineAlone) (hs : s.seq = .start w)
    (hd : decode w = .error e) : CompletesWithin 1 0 s := by
  have hst : step s = .next (s.complete .illegalCommand) := by
    rw [step_engineAlone ha, State.fetch_of_start hs, hd]
    rfl
  exact .step_of_port_eq hst rfl (.of_idle rfl rfl)

theorem MbPos.left_le (p : MbPos) : p.stepsLeft ≤ 7 ∧ p.transactionsLeft ≤ 5 := by cases p <;> simp

theorem BmsPos.left_le (p : BmsPos) : p.stepsLeft ≤ 17 ∧ p.transactionsLeft ≤ 12 := by
  cases p <;> simp <;> omega

/-- The bounds of R254 from those of one command. -/
theorem completes_of_completesWithin (hc : CompletesWithin n k s) (hn : n ≤ 18) (hk : k ≤ 12)
    (hmb : s.fetch = some (.ok .mbRead) → k ≤ 5)
    (hone : s.fetch ≠ some (.ok .mbRead) → s.fetch ≠ some (.ok .bmsXchg) → n ≤ 1 ∧ k = 0) :
    ∃ n t l, n ≤ 18 ∧ runSteps n s = .next t ∧ t.seq = .idle ∧ t.busy = false ∧ t.port = s.port ++ l ∧
      l.length ≤ 12 ∧ (s.fetch = some (.ok .mbRead) → l.length ≤ 5) ∧
      (s.fetch ≠ some (.ok .mbRead) → s.fetch ≠ some (.ok .bmsXchg) → n ≤ 1 ∧ l = []) := by
  obtain ⟨m, t, l, hm, hrun, hq, hb, hl, hlen⟩ := hc
  refine ⟨m, t, l, hm.trans hn, hrun, hq, hb, hl, hlen.trans hk, fun hf => hlen.trans (hmb hf), fun h1 h2 => ?_⟩
  obtain ⟨hn1, rfl⟩ := hone h1 h2
  exact ⟨hm.trans hn1, List.length_eq_zero_iff.1 (Nat.le_zero.1 hlen)⟩

theorem command_bounds (hf : s.fetch = some (.ok i)) :
    commandSteps i ≤ 18 ∧ commandTransactions i ≤ 12 ∧ (s.fetch = some (.ok .mbRead) → commandTransactions i ≤ 5) ∧
      (s.fetch ≠ some (.ok .mbRead) → s.fetch ≠ some (.ok .bmsXchg) →
        commandSteps i ≤ 1 ∧ commandTransactions i = 0) := by
  rw [hf]
  cases i <;> simp [commandSteps, commandTransactions]

/-- Settles O43. -/
theorem everyCommandCompletes : Obligations.EveryCommandCompletes := by
  intro s h ha hidle
  cases hs : s.seq with
  | idle => exact absurd hs hidle
  | start w =>
    have hf := State.fetch_of_start hs
    cases hd : decode w with
    | error e =>
      exact .inr (completes_of_completesWithin (illegal_completes ha hs hd) (by decide) (by decide)
        (fun _ => Nat.zero_le _) (fun _ _ => ⟨le_rfl, rfl⟩))
    | ok i =>
      rw [hd] at hf
      obtain ⟨hn, hk, hmb, hone⟩ := command_bounds hf
      rcases command_completes h ha hs hd with ⟨a, he⟩ | hc
      · exact .inl ⟨w, a, rfl, he⟩
      · exact .inr (completes_of_completesWithin hc hn hk hmb hone)
  | mbRead p =>
    obtain ⟨hsteps, htx⟩ := p.left_le
    have hf := State.fetch_of_mbRead hs
    have hc := exchange_completes 7 s h ha (by simp [hs]) (by rw [hs]; exact hsteps)
    rw [hs] at hc
    exact .inr (completes_of_completesWithin hc (by decide) (htx.trans (by decide)) (fun _ => htx)
      (fun hne _ => absurd hf hne))
  | bmsXchg p =>
    obtain ⟨hsteps, htx⟩ := p.left_le
    have hf := State.fetch_of_bmsXchg hs
    have hc := exchange_completes 17 s h ha (by simp [hs]) (by rw [hs]; exact hsteps)
    rw [hs] at hc
    exact .inr (completes_of_completesWithin hc (by decide) htx (fun hmb => by rw [hf] at hmb; cases hmb)
      (fun _ hne => absurd hf hne))

end
end Sys2Proof.Machine

/-!
PROOFS. The family of spec/10_state.md: who changes what (O44).
-/
namespace Sys2Proof.Machine

/-! ### The clauses, one by one -/

/-- The clauses of O44 about the flags. A clause about a flag that the step does not write needs no proof. -/
structure FlagOwners (s t : State) : Prop where
  crcOk : t.crcOk ≠ s.crcOk → s.runs .crcChk ∨ s.runs .clrStatus := by exact (absurd rfl ·)
  ovr_falls : s.ovr = true → t.ovr = false → s.runs .clrStatus := by
    exact fun h h' => Bool.noConfusion (h.symm.trans h')
  ovr_rises : s.ovr = false → t.ovr = true → s.rst = false ∧ s.busy = true ∧
      ∃ o v, o < 0x4000 ∧ s.nextTurn = .write .word (s.params.pbBase + o) v ∧ writeGated s.params.rxcap o = true := by
    exact fun h h' => Bool.noConfusion (h.symm.trans h')
  result : t.result ≠ s.result → s.rst = false ∧ s.nextTurn = .engine ∧ s.seq ≠ .idle ∧ t.seq = .idle := by
    exact (absurd rfl ·)
  done_rises : s.done = false → t.done = true →
      s.rst = false ∧ s.nextTurn = .engine ∧ s.seq ≠ .idle ∧ t.seq = .idle ∧ ¬ s.runs .clrStatus := by
    exact fun h h' => Bool.noConfusion (h.symm.trans h')
  done_falls : s.done = true → t.done = false → s.hostWrites 0 ∨ s.runs .clrStatus := by
    exact fun h h' => Bool.noConfusion (h.symm.trans h')
  busy_rises : s.busy = false → t.busy = true → s.hostWrites 0 := by
    exact fun h h' => Bool.noConfusion (h.symm.trans h')
  busy_falls : s.busy = true → t.busy = false →
      s.rst = false ∧ s.nextTurn = .engine ∧ s.seq ≠ .idle ∧ t.seq = .idle := by
    exact fun h h' => Bool.noConfusion (h.symm.trans h')

/-- The clauses of O44 about the other fields. A clause about a field that the step does not write needs no proof. -/
structure DataOwners (s t : State) : Prop where
  params : t.params = s.params := by rfl
  crc : t.crc ≠ s.crc →
      s.hostWrites 2 ∨ s.runs .crcInit ∨ (∃ b, s.runs (.crcByte b)) ∨ s.runs .crcTx ∨ s.runs .crcChk := by
    exact (absurd rfl ·)
  decoded : t.exc ≠ s.exc ∨ t.regcnt ≠ s.regcnt ∨ t.regs ≠ s.regs → s.runs .mbDecode ∨ s.runs .mbRead := by
    exact (Or.elim · (absurd rfl) (Or.elim · (absurd rfl) (absurd rfl)))
  chunks : t.chunks ≠ s.chunks → s.runs .bmsXchg := by exact (absurd rfl ·)
  latch : t.latch ≠ s.latch → s.hostWrites 0 := by exact (absurd rfl ·)
  txbuf : t.txbuf ≠ s.txbuf → (∃ i, i < 512 ∧ s.hostWrites (0x100 + i)) ∨ (∃ w, s.seq = .start w) ∧
      (s.runs .mbBuild ∨ s.runs .mbRead ∨ s.runs .bmsBuild ∨ s.runs .bmsXchg) := by exact (absurd rfl ·)
  txlen : t.txlen ≠ s.txlen → s.hostWrites 7 ∨ (∃ w, s.seq = .start w) ∧
      (s.runs .mbBuild ∨ s.runs .mbRead ∨ s.runs .bmsBuild ∨ s.runs .bmsXchg) := by exact (absurd rfl ·)
  rxbuf : t.rxbuf ≠ s.rxbuf →
      (∃ i, i < s.params.rxcap ∧ s.hostWrites (0x400 + i)) ∨ s.runs .mbRead ∨ s.runs .bmsXchg := by
    exact (absurd rfl ·)
  rxlen : t.rxlen ≠ s.rxlen → s.hostWrites 8 ∨ s.runs .mbRead ∨ s.runs .bmsXchg := by exact (absurd rfl ·)
  mbAddr : t.slave ≠ s.slave ∨ t.func ≠ s.func → s.hostWrites 4 := by exact (Or.elim · (absurd rfl) (absurd rfl))
  mbRange : t.start ≠ s.start ∨ t.count ≠ s.count → s.hostWrites 5 := by exact (Or.elim · (absurd rfl) (absurd rfl))
  bmsCfg : t.bcmd ≠ s.bcmd ∨ t.plen ≠ s.plen → s.hostWrites 6 := by exact (Or.elim · (absurd rfl) (absurd rfl))
  privCrc : t.privCrc ≠ s.privCrc → s.runs .mbBuild ∨ s.runs .mbDecode ∨ s.runs .mbRead := by exact (absurd rfl ·)
  port : t.port ≠ s.port ∨ t.answers ≠ s.answers ∨ t.draws ≠ s.draws →
      (s.runs .mbRead ∨ s.runs .bmsXchg) ∧ ∃ tx, t.port = s.port ++ [tx] := by
    exact (Or.elim · (absurd rfl) (Or.elim · (absurd rfl) (absurd rfl)))
  rdata : t.rdata ≠ s.rdata → s.nextTurn = .poll ∨ ∃ a, s.nextTurn = .read .word a := by exact (absurd rfl ·)

section

variable {s t : State}

/-! ### Turns that leave the fields in question alone -/

theorem FlagOwners.popTurn : FlagOwners s s.popTurn := {}

theorem DataOwners.popTurn : DataOwners s s.popTurn := {}

theorem DataOwners.setOvr : DataOwners s { s.popTurn with ovr := true } := {}

theorem DataOwners.complete (r : ResultCode) : DataOwners s (s.popTurn.complete r) := {}

/-! ### The host's turns -/

/-- What an address names lies at some offset of the window (R60). -/
theorem State.target_eq_some {addr : Nat} {tg : Target} (h : s.target addr = some tg) :
    ∃ o, o < 0x4000 ∧ addr = s.params.pbBase + o ∧ tg = targetAt s.params.rxcap o := by
  unfold State.target Config.windowSize at h
  split at h
  · cases h
    exact ⟨addr - s.params.pbBase, by omega, by omega, rfl⟩
  · cases h

/-- A write that the busy gate drops sets OVR, unless it is to STATUS or to a reserved word (R250). -/
theorem writeBusy_flagOwners {o : Nat} {v : Word} (hr : s.rst = false) (hb : s.busy = true) (ho : o < 0x4000)
    (hn : s.nextTurn = .write .word (s.params.pbBase + o) v) :
    FlagOwners s (s.popTurn.writeBusy (targetAt s.params.rxcap o)) := by
  have gated : targetAt s.params.rxcap o ≠ .status → targetAt s.params.rxcap o ≠ .reserved →
      FlagOwners s { s.popTurn with ovr := true } := fun h1 h2 =>
    { ovr_falls := nofun, ovr_rises := fun _ _ => ⟨hr, hb, o, v, ho, hn, writeGated_of_target ho h1 h2⟩ }
  cases htg : targetAt s.params.rxcap o with
  | status => exact .popTurn
  | reserved => exact .popTurn
  | _ => exact gated (by simp [htg]) (by simp [htg])

theorem writeBusy_dataOwners (tg : Target) : DataOwners s (s.popTurn.writeBusy tg) := by
  cases tg with
  | status => exact .popTurn
  | reserved => exact .popTurn
  | _ => exact .setOvr

theorem writeIdle_flagOwners {v : Word} {k : Nat} {tg : Target} (hw : s.hostWrites k)
    (hat : tg.liesAt s.params.rxcap k) :
    FlagOwners s (s.popTurn.writeIdle v tg) := by
  cases tg with
  | cmd =>
    obtain rfl : k = 0 := hat
    exact { done_rises := nofun, done_falls := fun _ _ => .inl hw, busy_rises := fun _ _ => hw, busy_falls := nofun }
  | status => exact .popTurn
  | exc => exact .popTurn
  | regcnt => exact .popTurn
  | chunks => exact .popTurn
  | param => exact .popTurn
  | reg i => exact .popTurn
  | reserved => exact .popTurn
  | _ => exact {}

theorem writeIdle_dataOwners {v : Word} {k : Nat} {tg : Target} (hw : s.hostWrites k)
    (hat : tg.liesAt s.params.rxcap k) :
    DataOwners s (s.popTurn.writeIdle v tg) := by
  cases tg with
  | cmd => obtain rfl : k = 0 := hat; exact { latch := fun _ => hw }
  | crc => obtain rfl : k = 2 := hat; exact { crc := fun _ => .inl hw }
  | mbAddr => obtain rfl : k = 4 := hat; exact { mbAddr := fun _ => hw }
  | mbRange => obtain rfl : k = 5 := hat; exact { mbRange := fun _ => hw }
  | bmsCfg => obtain rfl : k = 6 := hat; exact { bmsCfg := fun _ => hw }
  | txlen => obtain rfl : k = 7 := hat; exact { txlen := fun _ => .inl hw }
  | rxlen => obtain rfl : k = 8 := hat; exact { rxlen := fun _ => .inl hw }
  | tx i => obtain ⟨hi, rfl⟩ := hat; exact { txbuf := fun _ => .inl ⟨i, hi, hw⟩ }
  | rx i => obtain ⟨hi, rfl⟩ := hat; exact { rxbuf := fun _ => .inl ⟨i, hi, hw⟩ }
  | _ => exact .popTurn

/-- A host write changes the field it addresses, or OVR where the busy gate drops it (R250). -/
theorem hostWrite_owners {width : AccessWidth} {addr : Nat} {v : Word} (hn : s.nextTurn = .write width addr v)
    (ht : hostWrite width addr v s.popTurn = .next t) : FlagOwners s t ∧ DataOwners s t := by
  unfold hostWrite at ht
  split at ht
  · cases ht
  · cases ht
  · split at ht
    · cases ht
    · rename_i tg htg
      obtain ⟨o, ho, rfl, rfl⟩ := State.target_eq_some htg
      cases ht
      unfold State.writeTarget
      split
      · exact ⟨.popTurn, .popTurn⟩
      · rename_i hrst
        have hrst : s.rst = false := Bool.eq_false_of_not_eq_true hrst
        split
        · rename_i hb
          exact ⟨writeBusy_flagOwners hrst hb ho hn, writeBusy_dataOwners _⟩
        · rename_i hb
          have hw : s.hostWrites (o / 4) := ⟨hrst, Bool.eq_false_of_not_eq_true hb, o, v, ho, rfl, hn⟩
          have hat := targetAt_liesAt s.params.rxcap o
          exact ⟨writeIdle_flagOwners hw hat, writeIdle_dataOwners hw hat⟩

theorem hostRead_owners {width : AccessWidth} {addr : Nat} (hn : s.nextTurn = .read width addr)
    (ht : hostRead width addr s.popTurn = .next t) : FlagOwners s t ∧ DataOwners s t := by
  unfold hostRead at ht
  split at ht
  · cases ht
  · cases ht
  · split at ht
    · cases ht
    · split at ht
      · cases ht
      · cases ht
        exact ⟨{}, { rdata := fun _ => .inr ⟨addr, hn⟩ }⟩

theorem hostPoll_owners (hn : s.nextTurn = .poll) (ht : hostPoll s.popTurn = .next t) :
    FlagOwners s t ∧ DataOwners s t := by
  unfold hostPoll at ht
  split at ht
  · cases ht
    exact ⟨{}, { rdata := fun _ => .inl hn }⟩
  · cases ht
    exact ⟨{}, { rdata := fun _ => .inl hn }⟩

/-! ### The engine's turn -/

/-- CLR_STATUS clears the flags (R251). -/
theorem exec_clrStatus_flags (ht : exec .clrStatus s = .next t) : t.ovr = false ∧ t.done = false := by
  cases ht
  exact ⟨rfl, rfl⟩

/-- The flags change where the step ends the command, and as CRC_CHK and CLR_STATUS say (R25, R251, R254, R276). -/
theorem exec_flagOwners {i : Instr} (hr : s.rst = false) (hn : s.nextTurn = .engine) (hf : s.fetch = some (.ok i))
    (ht : exec i s.popTurn = .next t) : FlagOwners s t := by
  obtain ⟨hgoes, hcrcOk, hovr⟩ := exec_keeps_flags ht
  have hruns : s.runs i := ⟨hr, hn, hf⟩
  have hidle := State.seq_ne_idle_of_fetch hf
  have hends : t.seq = .idle → t.busy = false ∧ (i ≠ .clrStatus → t.done = true) := by
    rcases exec_leadsOn i s.popTurn with ⟨a, ha⟩ | ⟨u, hu, hends⟩
    · rw [ha] at ht; cases ht
    · rw [hu] at ht; cases ht; exact hends
  have ends : t.busy ≠ s.busy ∨ t.done ≠ s.done ∨ t.result ≠ s.result → t.seq = .idle := by
    intro h
    by_contra hq
    obtain ⟨hb, hd, hres⟩ := hgoes hq
    exact h.elim (· hb) (Or.elim · (· hd) (· hres))
  constructor
  case crcOk =>
    intro h
    by_cases hchk : i = .crcChk
    · exact .inl (hchk ▸ hruns)
    · by_cases hclr : i = .clrStatus
      · exact .inr (hclr ▸ hruns)
      · exact absurd (hcrcOk hchk hclr) h
  case ovr_falls =>
    intro h h'
    by_cases hclr : i = .clrStatus
    · exact hclr ▸ hruns
    · exact absurd (h.symm.trans ((hovr hclr).symm.trans h')) (by decide)
  case ovr_rises =>
    intro h h'
    by_cases hclr : i = .clrStatus
    · subst hclr
      exact absurd ((exec_clrStatus_flags ht).1.symm.trans h') (by decide)
    · exact absurd (h.symm.trans ((hovr hclr).symm.trans h')) (by decide)
  case result => exact fun h => ⟨hr, hn, hidle, ends (.inr (.inr h))⟩
  case done_rises =>
    intro h h'
    refine ⟨hr, hn, hidle, ends (.inr (.inl (by simp [h, h']))), fun ⟨_, _, hf'⟩ => ?_⟩
    obtain rfl : i = .clrStatus := by simpa [hf] using hf'
    exact absurd ((exec_clrStatus_flags ht).2.symm.trans h') (by decide)
  case done_falls =>
    intro h h'
    by_cases hclr : i = .clrStatus
    · exact .inr (hclr ▸ hruns)
    · have hdone := (hends (ends (.inr (.inl (by simp [h, h']))))).2 hclr
      exact absurd (hdone.symm.trans h') (by decide)
  case busy_rises =>
    intro h h'
    have hbusy := (hends (ends (.inl (by simp [h, h'])))).1
    exact absurd (hbusy.symm.trans h') (by decide)
  case busy_falls => exact fun h h' => ⟨hr, hn, hidle, ends (.inl (by simp [h, h']))⟩

/-- The first engine step of a command writes the fields of its own result (R124 to R127, R160 to R162,
R210 to R212). -/
theorem exec_start_dataOwners {i : Instr} {w : Word} (hq : s.seq = .start w) (hi : s.runs i)
    (ht : exec i s.popTurn = .next t) : DataOwners s t := by
  cases i with
  | crcInit => cases ht; exact { crc := fun _ => .inr (.inl hi) }
  | crcByte arg => cases ht; exact { crc := fun _ => .inr (.inr (.inl ⟨arg, hi⟩)) }
  | crcTx =>
    rcases execCrcTx_cases s.popTurn with h | ⟨_, h⟩ <;> cases h.symm.trans ht
    exact { crc := fun _ => .inr (.inr (.inr (.inl hi))) }
  | crcChk =>
    rcases execCrcChk_cases s.popTurn with h | ⟨_, _, _, h⟩ <;> cases h.symm.trans ht
    exact { crc := fun _ => .inr (.inr (.inr (.inr hi))) }
  | mbBuild =>
    rcases execMbBuild_cases s.popTurn with h | h <;> cases h.symm.trans ht
    · exact {
        txbuf := fun _ => .inr ⟨⟨w, hq⟩, .inl hi⟩
        txlen := fun _ => .inr ⟨⟨w, hq⟩, .inl hi⟩
        privCrc := fun _ => .inl hi }
    · exact .complete _
  | mbDecode =>
    rcases s.popTurn.finishDecode_cases with h | ⟨_, _, _, _, _, h⟩ <;> cases h.symm.trans ht
    exact { decoded := fun _ => .inl hi, privCrc := fun _ => .inr (.inl hi) }
  | mbRead =>
    simp only [exec, execMbRead, State.popTurn_seq, hq] at ht
    rcases mbReadBuild_cases s.popTurn with h | ⟨_, h⟩ <;> cases h.symm.trans ht
    · exact { decoded := fun _ => .inr hi }
    · exact {
        txbuf := fun _ => .inr ⟨⟨w, hq⟩, .inr (.inl hi)⟩
        txlen := fun _ => .inr ⟨⟨w, hq⟩, .inr (.inl hi)⟩
        rxlen := fun _ => .inr (.inl hi)
        privCrc := fun _ => .inr (.inr hi) }
  | bmsBuild =>
    rcases execBmsBuild_cases s.popTurn with h | h | ⟨_, h⟩ <;> cases h.symm.trans ht
    · exact .complete _
    · exact {
        txbuf := fun _ => .inr ⟨⟨w, hq⟩, .inr (.inr (.inl hi))⟩
        txlen := fun _ => .inr ⟨⟨w, hq⟩, .inr (.inr (.inl hi))⟩ }
  | bmsCheck =>
    rcases s.popTurn.finishBms_cases with h | ⟨_, h⟩ <;> cases h.symm.trans ht
    exact .complete _
  | bmsXchg =>
    simp only [exec, execBmsXchg, State.popTurn_seq, hq] at ht
    rcases bmsXchgBuild_cases s.popTurn with h | h | ⟨_, _, h⟩ <;> cases h.symm.trans ht
    · exact { chunks := fun _ => hi }
    · exact {
        chunks := fun _ => hi
        txbuf := fun _ => .inr ⟨⟨w, hq⟩, .inr (.inr (.inr hi))⟩
        txlen := fun _ => .inr ⟨⟨w, hq⟩, .inr (.inr (.inr hi))⟩
        rxlen := fun _ => .inr (.inr hi) }
  | clrStatus => cases ht; exact {}

/-- A running MB_READ issues a transaction, stores what it read, or writes the result of its decode (R162). -/
theorem mbReadAt_dataOwners {p : MbPos} (hi : s.runs .mbRead) (ht : mbReadAt p s.popTurn = .next t) :
    DataOwners s t := by
  rcases mbReadAt_cases s.popTurn p with h | ⟨tx, _, h⟩ | ⟨_, h⟩ | ⟨_, _, _, _, _, h⟩ <;> cases h.symm.trans ht
  · exact { port := fun _ => ⟨.inl hi, tx, rfl⟩ }
  · exact { rxbuf := fun _ => .inr (.inl hi), rxlen := fun _ => .inr (.inl hi) }
  · exact { decoded := fun _ => .inr hi, privCrc := fun _ => .inr (.inr hi) }

/-- A running BMS_XCHG issues a transaction, or counts a read and stores what it read (R212). -/
theorem bmsXchgAt_dataOwners {p : BmsPos} (hi : s.runs .bmsXchg) (ht : bmsXchgAt p s.popTurn = .next t) :
    DataOwners s t := by
  rcases bmsXchgAt_cases s.popTurn p with h | ⟨tx, _, h⟩ | ⟨tx, _, h⟩ | ⟨_, _, _, _, h⟩ | ⟨_, _, h⟩ <;>
    cases h.symm.trans ht
  · exact { port := fun _ => ⟨.inr hi, tx, rfl⟩ }
  · exact { port := fun _ => ⟨.inr hi, tx, rfl⟩ }
  · exact { chunks := fun _ => hi, rxbuf := fun _ => .inr (.inr hi), rxlen := fun _ => .inr (.inr hi) }
  · exact { chunks := fun _ => hi }

/-- An engine step of a command: PB is at the start of a command or inside an exchange (R23). -/
theorem exec_dataOwners {i : Instr} (hi : s.runs i) (ht : exec i s.popTurn = .next t) : DataOwners s t := by
  have ⟨_, _, hf⟩ := hi
  cases hq : s.seq with
  | idle => exact absurd hq (State.seq_ne_idle_of_fetch hf)
  | start w => exact exec_start_dataOwners hq hi ht
  | mbRead p =>
    obtain rfl : i = .mbRead := by simpa [State.fetch_of_mbRead hq, eq_comm] using hf
    exact mbReadAt_dataOwners hi ((exec_mbRead_at (s := s.popTurn) hq).symm.trans ht)
  | bmsXchg p =>
    obtain rfl : i = .bmsXchg := by simpa [State.fetch_of_bmsXchg hq, eq_comm] using hf
    exact bmsXchgAt_dataOwners hi ((exec_bmsXchg_at (s := s.popTurn) hq).symm.trans ht)

/-- An OP outside the map ends with IllegalCommand and writes nothing else (R252). -/
theorem runIllegal_owners {e : DecodeError} (hr : s.rst = false) (hn : s.nextTurn = .engine)
    (hf : s.fetch = some (.error e)) (ht : runIllegal s.popTurn = .next t) : FlagOwners s t ∧ DataOwners s t := by
  have hidle := State.seq_ne_idle_of_fetch hf
  have hnot : ¬ s.runs .clrStatus := fun ⟨_, _, hf'⟩ => by simp [hf] at hf'
  cases ht
  exact ⟨{
    result := fun _ => ⟨hr, hn, hidle, rfl⟩
    done_rises := fun _ _ => ⟨hr, hn, hidle, rfl, hnot⟩
    done_falls := nofun
    busy_rises := nofun
    busy_falls := fun _ _ => ⟨hr, hn, hidle, rfl⟩ }, .complete _⟩

theorem engineStep_owners (hn : s.nextTurn = .engine) (ht : engineStep s.popTurn = .next t) :
    FlagOwners s t ∧ DataOwners s t := by
  have hfetch : s.popTurn.fetch = s.fetch := rfl
  unfold engineStep at ht
  split at ht
  · cases ht
    exact ⟨.popTurn, .popTurn⟩
  · rename_i hrst
    have hr : s.rst = false := Bool.eq_false_of_not_eq_true hrst
    rw [hfetch] at ht
    cases hf : s.fetch with
    | none => rw [hf] at ht; cases ht; exact ⟨.popTurn, .popTurn⟩
    | some x =>
      rw [hf] at ht
      cases x with
      | ok i => exact ⟨exec_flagOwners hr hn hf ht, exec_dataOwners ⟨hr, hn, hf⟩ ht⟩
      | error e => exact runIllegal_owners hr hn hf ht

/-- Whoever moves, but for an asserted `rst`, changes what is its own (R68, R76). -/
theorem step_owners (ht : step s = .next t) (hrst : s.nextTurn ≠ .rst true) : FlagOwners s t ∧ DataOwners s t := by
  unfold step at ht
  cases hn : s.nextTurn <;> rw [hn] at ht
  case engine => exact engineStep_owners hn ht
  case read width addr => exact hostRead_owners hn ht
  case write width addr v => exact hostWrite_owners hn ht
  case poll => exact hostPoll_owners hn ht
  case rst level =>
    cases level with
    | true => exact absurd hn hrst
    | false => cases ht; exact ⟨{}, {}⟩

/-- Settles O44. -/
theorem onlyTheirOwnersChangeOutputs : Obligations.OnlyTheirOwnersChangeOutputs := by
  intro s t ht hrst
  obtain ⟨hflag, hdata⟩ := step_owners ht hrst
  exact ⟨hdata.params, hdata.crc, hdata.decoded, hdata.chunks, hflag.crcOk, hflag.ovr_falls, hflag.ovr_rises,
    hflag.result, hflag.done_rises, hflag.done_falls, hflag.busy_rises, hflag.busy_falls, hdata.latch, hdata.txbuf,
    hdata.txlen, hdata.rxbuf, hdata.rxlen, hdata.mbAddr, hdata.mbRange, hdata.bmsCfg, hdata.privCrc, hdata.port,
    hdata.rdata⟩

end
end Sys2Proof.Machine

/-!
PROOFS. The family of spec/20_memory.md, the host's accesses: their widths and low address bits (O13), and that a read
has no side effect (O12).
-/
namespace Sys2Proof.Machine

/-- An access of width 1 or 2 is refused, whatever its address (R62). -/
theorem hostRead_of_ne_word {wd : AccessWidth} (h : wd ≠ .word) (a : Nat) (s : State) :
    hostRead wd a s = .refused .refusedWidth := by
  cases wd with
  | byte => rfl
  | half => rfl
  | word => exact absurd rfl h

theorem hostWrite_of_ne_word {wd : AccessWidth} (h : wd ≠ .word) (a : Nat) (v : Word) (s : State) :
    hostWrite wd a v s = .refused .refusedWidth := by
  cases wd with
  | byte => rfl
  | half => rfl
  | word => exact absurd rfl h

/-- An offset and the multiple of 4 below it name the same word (R62). -/
theorem State.target_aligned (s : State) {o : Nat} (ho : o < 0x4000) :
    s.target (s.params.pbBase + o) = s.target (s.params.pbBase + (o - o % 4)) := by
  have sameWord : o / 4 = (o - o % 4) / 4 := by omega
  rw [State.target_inside ho, State.target_inside (by omega), targetAt_congr sameWord]

/-- A host access depends on its address only by the word the address names (R62). -/
theorem hostRead_word_congr {s : State} {a a' : Nat} {tg : Target} (h : s.target a = some tg)
    (h' : s.target a' = some tg) : hostRead .word a s = hostRead .word a' s := by
  simp only [hostRead, h, h']

theorem hostWrite_word_congr {s : State} {a a' : Nat} {tg : Target} (v : Word) (h : s.target a = some tg)
    (h' : s.target a' = some tg) : hostWrite .word a v s = hostWrite .word a' v s := by
  simp only [hostWrite, h, h']

/-- Settles O13. -/
theorem accessWidthAndLowAddressBits : Obligations.AccessWidthAndLowAddressBits := by
  refine ⟨?_, ?_, ?_, ?_⟩
  · exact fun s wd a rest hwd h => (step_cons h).trans (hostRead_of_ne_word hwd a _)
  · exact fun s wd a v rest hwd h => (step_cons h).trans (hostWrite_of_ne_word hwd a v _)
  · intro s o rest ho
    have htg := State.target_inside (s := { s with agenda := rest }) ho
    have haligned := State.target_aligned { s with agenda := rest } ho
    rw [step_cons rfl, step_cons rfl]
    exact hostRead_word_congr htg (haligned.symm.trans htg)
  · intro s o v rest ho
    have htg := State.target_inside (s := { s with agenda := rest }) ho
    have haligned := State.target_aligned { s with agenda := rest } ho
    rw [step_cons rfl, step_cons rfl]
    exact hostWrite_word_congr v htg (haligned.symm.trans htg)

/-- A host read that is answered: what it names, the word it returns, and that it only records that word (R67). -/
theorem hostRead_eq_next {wd : AccessWidth} {a : Nat} {s t : State} (h : hostRead wd a s = .next t) :
    ∃ tg v, s.target a = some tg ∧ s.readTarget tg = .ok v ∧ t = s.returned v := by
  unfold hostRead at h
  split at h
  · cases h
  · cases h
  · split at h
    · cases h
    · rename_i tg htg
      split at h
      · cases h
      · rename_i v hv
        cases h
        exact ⟨tg, v, htg, hv, rfl⟩

/-- What a word reads as depends neither on the turns to come nor on what was read before. -/
theorem State.readTarget_agenda_rdata (s : State) (turns : List Turn) (ws : List Word) (tg : Target) :
    State.readTarget { s with agenda := turns, rdata := ws } tg = s.readTarget tg := by
  cases tg <;> rfl

/-- A read turn that is answered takes the turn and records the word returned (R67). -/
theorem step_read_eq_next {s t : State} {wd : AccessWidth} {a : Nat} {rest : List Turn}
    (h : s.agenda = .read wd a :: rest) (ht : step s = .next t) :
    ∃ tg v, s.target a = some tg ∧ s.readTarget tg = .ok v ∧
      t = { s with agenda := rest, rdata := s.rdata ++ [v] } := by
  rw [step_cons h] at ht
  obtain ⟨tg, v, htg, hv, rfl⟩ := hostRead_eq_next ht
  rw [State.readTarget_agenda_rdata s rest s.rdata] at hv
  exact ⟨tg, v, htg, hv, rfl⟩

/-- A run of one step and more, taken apart. -/
theorem runSteps_succ_eq_next {n : Nat} {s t : State} (h : runSteps (n + 1) s = .next t) :
    ∃ u, step s = .next u ∧ runSteps n u = .next t := by
  simp only [runSteps] at h
  cases hs : step s with
  | next u => rw [hs] at h; exact ⟨u, rfl, h⟩
  | fault e => rw [hs] at h; cases h
  | refused r => rw [hs] at h; cases h

/-- Settles O12: the second read finds the same word at the same address, and the first has not changed it. -/
theorem hostReadHasNoSideEffect : Obligations.HostReadHasNoSideEffect := by
  refine ⟨fun s t wd a rest h ht => ?_, fun s t wd a rest h ht => ?_⟩
  · obtain ⟨_, v, _, _, rfl⟩ := step_read_eq_next h ht
    exact ⟨v, rfl⟩
  · obtain ⟨u, hfirst, hrun⟩ := runSteps_succ_eq_next ht
    obtain ⟨u', hsecond, hend⟩ := runSteps_succ_eq_next hrun
    obtain ⟨tg, v, htg, hv, rfl⟩ := step_read_eq_next h hfirst
    obtain ⟨tg', v', htg', hv', rfl⟩ := step_read_eq_next rfl hsecond
    obtain rfl : tg = tg' := Option.some.inj (htg.symm.trans htg')
    rw [State.readTarget_agenda_rdata] at hv'
    obtain rfl : v = v' := Except.ok.inj (hv.symm.trans hv')
    cases hend
    exact ⟨v, by simp only [List.append_assoc, List.cons_append, List.nil_append]⟩

end Sys2Proof.Machine

/-!
PROOFS. The family of spec/20_memory.md, the transport port: what a read hands on (O46), and the end of an exchange
whose transaction is answered Err (O33, O41).
-/
namespace Sys2Proof.Machine

/-! ### What a read hands on -/

/-- Settles O46: the answer is clipped to what was asked for, wherever it comes from. -/
theorem readAnswersAreBounded : Obligations.ReadAnswersAreBounded := by
  refine fun s t bs => ⟨fun hs ht hgot => ?_, fun ix hs ht hgot => ?_⟩
  · rw [exec_mbRead_at hs] at ht
    cases ht
    have hclip : clipAnswer (mbExpected s.latch.count) s.answer = .ok bs := MbPos.got.inj (Seq.mbRead.inj hgot)
    exact ⟨clipAnswer_length hclip, rfl⟩
  · rw [exec_bmsXchg_at hs] at ht
    cases ht
    have hclip : clipAnswer s.chunkSize s.answer = .ok bs := (BmsPos.got.inj (Seq.bmsXchg.inj hgot)).2
    have hroom : s.chunkSize ≤ s.params.rxcap - s.rxlen.toNat := Nat.min_le_right _ _
    exact ⟨s.chunkSize, Nat.min_le_left _ _, by omega, clipAnswer_length hclip, rfl⟩

/-! ### A transaction answered Err -/

/-- A clear or a write answered Err (R79). -/
theorem State.transact_of_err {s : State} {rest : List Answer} (tx : Transaction) (good bad : Seq)
    (h : s.answers = .err :: rest) :
    s.transact tx good bad = .next { s with port := s.port ++ [tx], answers := rest, seq := bad } := by
  rw [State.transact_eq, State.answer_of_cons h, State.transacted_goto_of_cons tx _ h]
  rfl

/-- Two steps are a run. -/
theorem runSteps_two {s t u : State} (h : step s = .next t) (h' : step t = .next u) : runSteps 2 s = .next u :=
  (runSteps_succ h).trans (runSteps_succ h')

/-- A clear or the write of MB_READ answered Err ends the command with TransportError (R79, R162). -/
theorem mbRead_transact_err_ends {s : State} {p good : MbPos} {tx : Transaction} {rest : List Answer}
    (hal : s.engineAlone) (ha : s.answers = .err :: rest) (hs : s.seq = .mbRead p)
    (hp : mbReadAt p s = s.transact tx (.mbRead good) (.mbRead .failed)) :
    runSteps 2 s = .next (State.ended { s with
      port := s.port ++ [tx], answers := rest, regcnt := 0#16, exc := 0#8 } 7#4) := by
  have htx := (step_mbReadAt hal hs).trans (hp.trans (State.transact_of_err tx _ _ ha))
  exact runSteps_two htx (Eq.trans (step_mbReadAt hal rfl) rfl)

/-- The read of MB_READ answered Err ends the command with TransportError (R79, R162). -/
theorem mbRead_read_err_ends {s : State} {rest : List Answer} (hal : s.engineAlone) (ha : s.answers = .err :: rest)
    (hs : s.seq = .mbRead .read) :
    runSteps 2 s = .next (State.ended { s with
      port := s.port ++ [.read (mbExpected s.latch.count) .mbTimeout], answers := rest
      regcnt := 0#16, exc := 0#8 } 7#4) := by
  have htx := step_mbReadAt hal hs
  simp only [mbReadAt, State.answer_of_cons ha, State.transacted_goto_of_cons _ _ ha, clipAnswer] at htx
  exact runSteps_two htx (Eq.trans (step_mbReadAt hal rfl) rfl)

/-- Settles O33, one transaction after the other. -/
theorem mbReadTransportErrorEnds : Obligations.MbReadTransportErrorEnds := by
  intro s fr tx rest hal ha hcases
  rcases hcases with ⟨hs, rfl⟩ | ⟨hs, rfl⟩ | ⟨hs, rfl⟩ | ⟨hs, rfl⟩ | ⟨hs, rfl⟩
  · exact mbRead_transact_err_ends hal ha hs rfl
  · exact mbRead_transact_err_ends hal ha hs rfl
  · exact mbRead_transact_err_ends hal ha hs rfl
  · exact mbRead_read_err_ends hal ha hs
  · exact mbRead_transact_err_ends hal ha hs rfl

/-- A clear or the write of BMS_XCHG answered Err ends the command with TransportError (R79, R212). -/
theorem bmsXchg_transact_err_ends {s : State} {p good : BmsPos} {tx : Transaction} {rest : List Answer}
    (hal : s.engineAlone) (ha : s.answers = .err :: rest) (hs : s.seq = .bmsXchg p)
    (hp : bmsXchgAt p s = s.transact tx (.bmsXchg good) (.bmsXchg .failed)) :
    runSteps 2 s = .next (State.ended { s with port := s.port ++ [tx], answers := rest } 7#4) := by
  have htx := (step_bmsXchgAt hal hs).trans (hp.trans (State.transact_of_err tx _ _ ha))
  exact runSteps_two htx (Eq.trans (step_bmsXchgAt hal rfl) rfl)

/-- A read of BMS_XCHG answered Err is counted and ends the command with TransportError (R79, R212). -/
theorem bmsXchg_read_err_ends {s : State} {ix : ReadIx} {rest : List Answer} (hal : s.engineAlone)
    (ha : s.answers = .err :: rest) (hs : s.seq = .bmsXchg (.read ix)) :
    runSteps 2 s = .next (State.ended { s with
      port := s.port ++ [.read s.chunkSize .bmsRdTimeout], answers := rest, chunks := s.chunks + 1#3 } 7#4) := by
  have htx := step_bmsXchgAt hal hs
  simp only [bmsXchgAt, State.answer_of_cons ha, State.transacted_goto_of_cons _ _ ha, clipAnswer] at htx
  exact runSteps_two htx (Eq.trans (step_bmsXchgAt hal rfl) rfl)

/-- Settles O41, one transaction after the other. -/
theorem bmsXchgTransportErrorEnds : Obligations.BmsXchgTransportErrorEnds := by
  refine fun s fr ix tx rest hal ha => ⟨fun hcases => ?_, fun hs => bmsXchg_read_err_ends hal ha hs⟩
  rcases hcases with ⟨hs, rfl⟩ | ⟨hs, rfl⟩ | ⟨hs, rfl⟩ | ⟨hs, rfl⟩
  · exact bmsXchg_transact_err_ends hal ha hs rfl
  · exact bmsXchg_transact_err_ends hal ha hs rfl
  · exact bmsXchg_transact_err_ends hal ha hs rfl
  · exact bmsXchg_transact_err_ends hal ha hs rfl

end Sys2Proof.Machine

/-!
PROOFS. The family of spec/20_memory.md, the transport port: MB_READ as a whole (O32).
-/
namespace Sys2Proof.Machine

/-- With the engine alone, the first step of a command is its `exec`. -/
theorem step_of_start {s : State} {w : Word} {i : Instr} (hal : s.engineAlone) (hs : s.seq = .start w)
    (hd : decode w = .ok i) : step s = exec i s := by
  rw [step_engineAlone hal, State.fetch_of_start hs, hd]

theorem exec_mbRead_start {s : State} {w : Word} (hs : s.seq = .start w) : exec .mbRead s = mbReadBuild s := by
  simp only [exec, execMbRead, hs]

/-- The build step of an admitted MB_READ (R151, R153, R162). -/
theorem mbReadBuild_of_admitted {s : State} (h : s.mbAdmitted) :
    mbReadBuild s = .next (State.goto { s.buildMb with rxlen := 0#16 }
      (.mbRead (.clearIn (mbRequest s.latch.slave s.latch.func s.latch.start s.latch.count)))) := by
  obtain ⟨hlegal, hcap⟩ := h
  rw [mbReadBuild, if_neg (by simp [hlegal]), if_neg (Nat.not_lt.2 hcap)]

/-- A run inside MB_READ makes the step of its program point and goes on. -/
theorem runSteps_mbRead {n : Nat} {s t : State} {p : MbPos} (hal : s.engineAlone) (hs : s.seq = .mbRead p)
    (hp : mbReadAt p s = .next t) : runSteps (n + 1) s = runSteps n t :=
  runSteps_succ ((step_mbReadAt hal hs).trans hp)

/-- Bytes stored from RXBUF[0] on are RXBUF[0..RXLEN) (R162). -/
theorem State.rxIs_of_stored {s : State} {m : Memory 8} {f : List Byte} (hbuf : s.rxbuf = Memory.writeRange m 0 f)
    (hlen : s.rxlen = BitVec.ofNat 16 f.length) (hfit : f.length < 65536) : s.rxIs f := by
  refine ⟨?_, ?_⟩
  · rw [hlen, BitVec.toNat_ofNat, Nat.mod_eq_of_lt hfit]
  · rw [hbuf]
    exact holds_writeRange m 0 f

/-- An admitted MB_READ from its first engine step to its end, every transaction answered Ok: the request in TXBUF, the
transactions in their order, the bytes received in RXBUF, and the result `mbDecode` gives for them (R80, R162). -/
theorem runSteps_mbRead_admitted {s : State} {w : Word} {x1 x2 x3 bs x5 f : List Byte} {rest : List Answer}
    (hal : s.engineAlone) (hs : s.seq = .start w) (hd : decode w = .ok .mbRead) (hadmitted : s.mbAdmitted)
    (ha : s.answers = .ok x1 :: .ok x2 :: .ok x3 :: .ok bs :: .ok x5 :: rest)
    (hf : f = bs.take (mbExpected s.latch.count)) (hfit : f.length < 65536) :
    runSteps 8 s = .next (State.finishMb { s.buildMb with
      rxbuf := Memory.writeRange s.rxbuf 0 f, rxlen := BitVec.ofNat 16 f.length
      privCrc := (mbDecodeCrc f).getD s.buildMb.privCrc, answers := rest
      port := s.port ++ [.clearIn, .clearOut,
        .write (mbRequest s.latch.slave s.latch.func s.latch.start s.latch.count),
        .read (mbExpected s.latch.count) .mbTimeout, .clearIn]
      seq := .mbRead .finish } (mbDecode f)) := by
  subst hf
  have hbuild := (exec_mbRead_start hs).trans (mbReadBuild_of_admitted hadmitted)
  refine Eq.trans (runSteps_succ ((step_of_start hal hs hd).trans hbuild)) ?clearIn
  refine Eq.trans (runSteps_mbRead hal rfl (State.transact_of_ok _ _ _ ha)) ?clearOut
  refine Eq.trans (runSteps_mbRead hal rfl (State.transact_of_ok _ _ _ rfl)) ?write
  refine Eq.trans (runSteps_mbRead hal rfl (State.transact_of_ok _ _ _ rfl)) ?read
  refine Eq.trans (runSteps_mbRead hal rfl (mbReadAt_read_of_ok rfl)) ?got
  refine Eq.trans (runSteps_mbRead hal rfl rfl) ?closeIn
  refine Eq.trans (runSteps_mbRead hal rfl (State.transact_of_ok _ _ _ rfl)) ?finish
  simp only [State.goto, State.storeRx, List.append_assoc, List.cons_append, List.nil_append, Nat.zero_add]
  exact runSteps_mbRead hal rfl (State.finishDecode_eq (State.decodeRx_of_rxIs (State.rxIs_of_stored rfl rfl hfit)))

/-- How MB_READ and MB_DECODE end: the code, and what each result leaves in REGS, REGCNT and EXC (R156). -/
theorem State.finishMb_results (s : State) (r : MbResult) : ∃ regs n e,
    s.finishMb r = State.ended { s with regs := regs, regcnt := n, exc := e } r.resultCode.code ∧
    (∀ rs, r = .ok rs → n = BitVec.ofNat 16 rs.length ∧ e = 0#8 ∧ regs = Memory.writeRange s.regs 0 rs) ∧
    (∀ code, r = .deviceException code → n = 0#16 ∧ e = code ∧ regs = s.regs) ∧
    (r = .noResponse ∨ r = .frameCorrupt ∨ r = .frameTooShort → n = 0#16 ∧ e = 0#8 ∧ regs = s.regs) := by
  cases r with
  | ok rs =>
    refine ⟨_, _, _, rfl, fun rs' h => ?_, nofun, nofun⟩
    cases h
    exact ⟨rfl, rfl, rfl⟩
  | deviceException code =>
    refine ⟨_, _, _, rfl, nofun, fun code' h => ?_, nofun⟩
    cases h
    exact ⟨rfl, rfl, rfl⟩
  | noResponse => exact ⟨_, _, _, rfl, nofun, nofun, fun _ => ⟨rfl, rfl, rfl⟩⟩
  | frameCorrupt => exact ⟨_, _, _, rfl, nofun, nofun, fun _ => ⟨rfl, rfl, rfl⟩⟩
  | frameTooShort => exact ⟨_, _, _, rfl, nofun, nofun, fun _ => ⟨rfl, rfl, rfl⟩⟩
  | badRequest => exact ⟨_, _, _, rfl, nofun, nofun, fun _ => ⟨rfl, rfl, rfl⟩⟩
  | transportError => exact ⟨_, _, _, rfl, nofun, nofun, fun _ => ⟨rfl, rfl, rfl⟩⟩

/-- Settles O32: the build step, the exchange, and the decode of what was received. -/
theorem mbReadWholeExchange : Obligations.MbReadWholeExchange := by
  intro s w x1 x2 x3 x5 bs f rest hal hp hs hd hfunc hcount hcap ha hf
  obtain ⟨_, hrxcap, _, _⟩ := params_bounds hp
  have hadmitted : s.mbAdmitted := ⟨(mbLegal_iff _ _).2 ⟨hfunc, hcount⟩, hcap⟩
  have hlen : f.length ≤ 3 + 2 * s.latch.count.toNat + 2 := by
    rw [hf]
    exact List.length_take_le _ _
  have hrun := runSteps_mbRead_admitted hal hs hd hadmitted ha hf (by omega)
  obtain ⟨regs, n, e, hend, hok, hexception, hother⟩ := State.finishMb_results _ (mbDecode f)
  refine ⟨_, _, hrun.trans (congrArg _ hend), rfl, ?_, ?_, ?_, ?_, ?_, ?_, ?_⟩
  · exact holds_writeRange s.txbuf 0 _
  · exact fun k hk => read_writeRange_outside s.txbuf 0 k _ (.inr (by rw [mbRequest_length]; omega))
  · exact holds_writeRange s.rxbuf 0 f
  · exact fun k hk => read_writeRange_outside s.rxbuf 0 k f (.inr (by omega))
  · intro rs hrs
    obtain ⟨rfl, rfl, rfl⟩ := hok rs hrs
    have hfew := mbDecode_ok_length hrs
    refine ⟨?_, rfl, holds_writeRange s.regs 0 rs, fun k hk => ?_⟩
    · exact (BitVec.toNat_ofNat _ _).trans (Nat.mod_eq_of_lt (by omega))
    · exact read_writeRange_outside s.regs 0 k rs (.inr (by omega))
  · exact hexception
  · exact hother

end Sys2Proof.Machine

/-!
PROOFS. The family of spec/20_memory.md, the transport port: BMS_XCHG as a whole (O40).
-/
namespace Sys2Proof.Machine

/-! ### The build, and the exchange up to the first read -/

theorem exec_bmsXchg_start {s : State} {w : Word} (hs : s.seq = .start w) : exec .bmsXchg s = bmsXchgBuild s := by
  simp only [exec, execBmsXchg, hs]

/-- The build step of a legal BMS_XCHG whose payload is written (R203, R212). -/
theorem bmsXchgBuild_of_legal {s : State} {p : List Byte} (hlegal : bmsLegal s.latch.bcmd = true)
    (hp : s.payload = some p) :
    bmsXchgBuild s = .next (State.goto { s.buildBms p with chunks := 0#3, rxlen := 0#16 }
      (.bmsXchg (.clearIn (bmsRequest s.latch.bcmd p)))) := by
  rw [bmsXchgBuild, if_neg (by simp [hlegal]), hp]

/-- A run inside BMS_XCHG makes the step of its program point and goes on. -/
theorem runSteps_bmsXchg {n : Nat} {s t : State} {p : BmsPos} (hal : s.engineAlone) (hs : s.seq = .bmsXchg p)
    (hp : bmsXchgAt p s = .next t) : runSteps (n + 1) s = runSteps n t :=
  runSteps_succ ((step_bmsXchgAt hal hs).trans hp)

/-- BMS_XCHG from its first engine step to its first read, every transaction answered Ok (R80, R212). -/
theorem runSteps_bmsXchg_opening {s : State} {w : Word} {p x1 x2 x3 : List Byte} {rest : List Answer}
    (hal : s.engineAlone) (hs : s.seq = .start w) (hd : decode w = .ok .bmsXchg)
    (hlegal : bmsLegal s.latch.bcmd = true) (hp : s.payload = some p)
    (ha : s.answers = .ok x1 :: .ok x2 :: .ok x3 :: rest) :
    runSteps 5 s = .next { s.buildBms p with
      chunks := 0#3, rxlen := 0#16, answers := rest
      port := s.port ++ [.clearIn, .clearOut, .write (bmsRequest s.latch.bcmd p), .wait .bmsSettle]
      seq := .bmsXchg (.read .first) } := by
  have hbuild := (exec_bmsXchg_start hs).trans (bmsXchgBuild_of_legal hlegal hp)
  refine Eq.trans (runSteps_succ ((step_of_start hal hs hd).trans hbuild)) ?clearIn
  refine Eq.trans (runSteps_bmsXchg hal rfl (State.transact_of_ok _ _ _ ha)) ?clearOut
  refine Eq.trans (runSteps_bmsXchg hal rfl (State.transact_of_ok _ _ _ rfl)) ?write
  refine Eq.trans (runSteps_bmsXchg hal rfl (State.transact_of_ok _ _ _ rfl)) ?settle
  refine Eq.trans (runSteps_bmsXchg hal rfl rfl) ?read
  simp only [runSteps_zero, State.goto, State.logged, List.append_assoc, List.cons_append, List.nil_append]
  rfl

/-! ### One read and what follows it -/

section

variable {n : Nat} {s : State} {ix : ReadIx} {c : List Byte} {rest : List Answer}

theorem stopsEarly_iff (ix : ReadIx) (bs : List Byte) : stopsEarly ix bs = true ↔ ix ≠ .first ∧ bs = [] := by
  cases ix <;> simp [stopsEarly]

/-- While RXBUF has room, the next drain read follows as long as there is one (R204, R205). -/
theorem State.afterRead_of_room (h : 0 < s.room) (ix : ReadIx) :
    s.afterRead ix = ix.following.elim .closeIn .drainWait := by
  unfold State.afterRead
  cases ix.following with
  | none => rfl
  | some next => exact if_neg (Nat.pos_iff_ne_zero.1 h)

/-- A read answered with bytes that go into RXBUF and leave room: they are appended, the read is counted, and the next
drain read follows if there is one (R204, R205, R212). -/
theorem runSteps_read_chunk (hal : s.engineAlone) (hp : s.params.wf = true) (hs : s.seq = .bmsXchg (.read ix))
    (ha : s.answers = .ok c :: rest) (hlen : c.length ≤ s.params.chunkMax)
    (hfit : s.rxlen.toNat + c.length < s.params.rxcap) (hgo : ix = .first ∨ c ≠ []) :
    runSteps (n + 2) s = runSteps n { s with
      rxbuf := Memory.writeRange s.rxbuf s.rxlen.toNat c, rxlen := BitVec.ofNat 16 (s.rxlen.toNat + c.length)
      chunks := s.chunks + 1#3, answers := rest, port := s.port ++ [.read s.chunkSize .bmsRdTimeout]
      seq := .bmsXchg (ix.following.elim .closeIn .drainWait) } := by
  obtain ⟨_, hcap, _, _⟩ := params_bounds hp
  have hall : c.take s.chunkSize = c := List.take_of_length_le (by simp only [State.chunkSize, State.room]; omega)
  have hnot : ¬ stopsEarly ix c = true := by rw [stopsEarly_iff]; tauto
  refine Eq.trans (runSteps_bmsXchg hal hs (bmsXchgAt_read_of_ok ix ha)) ?got
  refine Eq.trans (runSteps_bmsXchg hal rfl rfl) ?append
  rw [hall, State.appendChunk, if_neg hnot, State.afterRead_of_room]
  · rfl
  · simp only [State.room, State.storeRx_rxlen, State.storeRx_params, BitVec.toNat_ofNat]
    omega

/-- A drain read that yields nothing is counted and ends the schedule (R204). -/
theorem runSteps_read_empty (hal : s.engineAlone) (hs : s.seq = .bmsXchg (.read ix))
    (ha : s.answers = .ok [] :: rest) (hdrain : ix ≠ .first) :
    runSteps (n + 2) s = runSteps n { s with
      chunks := s.chunks + 1#3, answers := rest, port := s.port ++ [.read s.chunkSize .bmsRdTimeout]
      seq := .bmsXchg .closeIn } := by
  refine Eq.trans (runSteps_bmsXchg hal hs (bmsXchgAt_read_of_ok ix ha)) ?got
  refine Eq.trans (runSteps_bmsXchg hal rfl rfl) ?stop
  rw [List.take_nil, State.appendChunk, if_pos ((stopsEarly_iff ix []).2 ⟨hdrain, rfl⟩)]
  rfl

/-- `s` after a drain read, with the delay before it, that yielded `c`; BMS_XCHG goes on at `p`, and the answers after
this one are `rest`. -/
def State.drainChunk (s : State) (c : List Byte) (rest : List Answer) (p : BmsPos) : State :=
  { s with
    rxbuf := Memory.writeRange s.rxbuf s.rxlen.toNat c
    rxlen := BitVec.ofNat 16 (s.rxlen.toNat + c.length)
    chunks := s.chunks + 1#3
    answers := rest
    port := s.port ++ [.wait .bmsDrain, .read s.chunkSize .bmsRdTimeout]
    seq := .bmsXchg p }

theorem runSteps_drain_chunk (hal : s.engineAlone) (hp : s.params.wf = true) (hs : s.seq = .bmsXchg (.drainWait ix))
    (ha : s.answers = .ok c :: rest) (hlen : c.length ≤ s.params.chunkMax)
    (hfit : s.rxlen.toNat + c.length < s.params.rxcap) (hne : c ≠ []) :
    runSteps (n + 3) s = runSteps n (s.drainChunk c rest (ix.following.elim .closeIn .drainWait)) := by
  refine Eq.trans (runSteps_bmsXchg hal hs rfl) ?read
  refine Eq.trans (runSteps_read_chunk hal hp rfl ha hlen hfit (.inr hne)) ?append
  simp only [State.drainChunk, State.goto, State.logged, State.chunkSize, State.room, List.append_assoc,
    List.cons_append, List.nil_append]

theorem runSteps_drain_empty (hal : s.engineAlone) (hs : s.seq = .bmsXchg (.drainWait ix))
    (ha : s.answers = .ok [] :: rest) (hdrain : ix ≠ .first) :
    runSteps (n + 3) s = runSteps n (s.drainChunk [] rest .closeIn) := by
  refine Eq.trans (runSteps_bmsXchg hal hs rfl) ?read
  refine Eq.trans (runSteps_read_empty hal rfl ha hdrain) ?stop
  simp only [State.drainChunk, State.goto, State.logged, State.chunkSize, State.room, Memory.writeRange,
    List.length_nil, Nat.add_zero, BitVec.ofNat_toNat, BitVec.setWidth_eq, List.append_assoc, List.cons_append,
    List.nil_append]

end

/-! ### The drain reads -/

/-- How many drain reads are made from `ix` on where the chunks `cs` come: one for each, and one more that yields
nothing where reads are left (R204). -/
def drainReads (ix : ReadIx) (cs : List (List Byte)) : Nat := min (4 - ix.index) (cs.length + 1)

/-- The answers to those reads. -/
def drainAnswers (ix : ReadIx) (cs : List (List Byte)) : List Answer :=
  cs.map Answer.ok ++ if cs.length < 4 - ix.index then [.ok []] else []

/-- The transactions of `n` drain reads after `received` bytes: each waits, then asks for what R205 says. -/
def drainTransactions (p : Params) (received : Nat) (cs : List (List Byte)) (n : Nat) : List Transaction :=
  (List.range n).flatMap fun j => [.wait .bmsDrain,
    .read (min p.chunkMax (p.rxcap - (received + (cs.take j).flatten.length))) .bmsRdTimeout]

theorem drainTransactions_succ (p : Params) (received : Nat) (c : List Byte) (cs : List (List Byte)) (n : Nat) :
    drainTransactions p received (c :: cs) (n + 1) =
      .wait .bmsDrain :: .read (min p.chunkMax (p.rxcap - received)) .bmsRdTimeout ::
        drainTransactions p (received + c.length) cs n := by
  simp [drainTransactions, List.range_succ_eq_map, List.flatMap_map, Nat.add_assoc]

theorem drainTransactions_one (p : Params) (received : Nat) (cs : List (List Byte)) :
    drainTransactions p received cs 1 =
      [.wait .bmsDrain, .read (min p.chunkMax (p.rxcap - received)) .bmsRdTimeout] := by
  simp [drainTransactions]

/-- The same, with the bytes received before them as one more chunk. -/
theorem drainTransactions_eq_take (p : Params) (c0 : List Byte) (cs : List (List Byte)) (n : Nat) :
    drainTransactions p c0.length cs n = (List.range n).flatMap fun j => [.wait .bmsDrain,
      .read (min p.chunkMax (p.rxcap - ((c0 :: cs).take (j + 1)).flatten.length)) .bmsRdTimeout] := by
  simp only [drainTransactions, List.take_succ_cons, List.flatten_cons, List.length_append]

theorem drainReads_nil (ix : ReadIx) : drainReads ix [] = 1 := by
  have hix := ix.index_le
  simp only [drainReads, List.length_nil]
  omega

theorem drainAnswers_nil (ix : ReadIx) : drainAnswers ix [] = [.ok []] := by
  cases ix <;> rfl

theorem drainReads_cons {ix next : ReadIx} (h : ix.following = some next) (c : List Byte) (cs : List (List Byte)) :
    drainReads ix (c :: cs) = drainReads next cs + 1 := by
  have hix := ReadIx.index_of_following h
  have hnext := next.index_le
  simp only [drainReads, List.length_cons]
  omega

theorem drainAnswers_cons {ix next : ReadIx} (h : ix.following = some next) (c : List Byte) (cs : List (List Byte)) :
    drainAnswers ix (c :: cs) = .ok c :: drainAnswers next cs := by
  have hix := ReadIx.index_of_following h
  have hiff : cs.length + 1 < 4 - ix.index ↔ cs.length < 4 - next.index := by omega
  simp only [drainAnswers, List.map_cons, List.cons_append, List.length_cons, hiff]

theorem ReadIx.eq_d3_of_following {ix : ReadIx} (h : ix.following = none) : ix = .d3 := by
  cases ix with
  | d3 => rfl
  | _ => cases h

/-- Writing two adjacent ranges is writing one. -/
theorem Memory.writeRange_append {w : Nat} (us vs : List (BitVec w)) : ∀ (m : Memory w) (base : Nat),
    Memory.writeRange m base (us ++ vs) = Memory.writeRange (Memory.writeRange m base us) (base + us.length) vs := by
  induction us with
  | nil => intro m base; rfl
  | cons u us ih =>
    intro m base
    rw [List.cons_append, Memory.writeRange, ih, Memory.writeRange, List.length_cons]
    congr 1
    omega

/-- BMS_XCHG stands before drain read `ix`; the reads from there on will yield the chunks `cs`, none of them empty, of
at most BMS_CHUNK_MAX bytes each, which leave room in RXBUF; the answers after those are `rest`. -/
structure State.Drains (s : State) (ix : ReadIx) (cs : List (List Byte)) (rest : List Answer) : Prop where
  alone : s.engineAlone
  params : s.params.wf = true
  seq : s.seq = .bmsXchg (.drainWait ix)
  drain : ix ≠ .first
  reads : cs.length ≤ 4 - ix.index
  nonempty : ∀ c ∈ cs, c ≠ []
  bounded : ∀ c ∈ cs, c.length ≤ s.params.chunkMax
  fits : s.rxlen.toNat + cs.flatten.length < s.params.rxcap
  answers : s.answers = drainAnswers ix cs ++ rest

/-- `s` after the drain reads from `ix` on have yielded `cs`, before the closing clear. -/
def State.drained (s : State) (ix : ReadIx) (cs : List (List Byte)) (rest : List Answer) : State :=
  { s with
    rxbuf := Memory.writeRange s.rxbuf s.rxlen.toNat cs.flatten
    rxlen := BitVec.ofNat 16 (s.rxlen.toNat + cs.flatten.length)
    chunks := s.chunks + BitVec.ofNat 3 (drainReads ix cs)
    answers := rest
    port := s.port ++ drainTransactions s.params s.rxlen.toNat cs (drainReads ix cs)
    seq := .bmsXchg .closeIn }

/-- After a non-empty drain read that is not the last, the drain reads from the next one on are left (R204). -/
theorem State.Drains.next {s : State} {ix next : ReadIx} {c : List Byte} {cs : List (List Byte)} {rest : List Answer}
    (h : s.Drains ix (c :: cs) rest) (hnext : ix.following = some next) :
    (s.drainChunk c (drainAnswers next cs ++ rest) (.drainWait next)).Drains next cs rest := by
  obtain ⟨_, hcap, _, _⟩ := params_bounds h.params
  have hindex := ReadIx.index_of_following hnext
  have hreads := h.reads
  have hfits := h.fits
  simp only [List.length_cons, List.flatten_cons, List.length_append] at hreads hfits
  exact {
    alone := h.alone
    params := h.params
    seq := rfl
    drain := by rintro rfl; exact absurd hindex (Nat.succ_ne_zero _).symm
    reads := by omega
    nonempty := fun d hd => h.nonempty d (List.mem_cons_of_mem c hd)
    bounded := fun d hd => h.bounded d (List.mem_cons_of_mem c hd)
    fits := by
      simp only [State.drainChunk, BitVec.toNat_ofNat]
      omega
    answers := rfl }

/-- Where only one drain read is made, it leaves what all of them leave. -/
theorem State.drained_of_one {s : State} {ix : ReadIx} {cs : List (List Byte)} (h : drainReads ix cs = 1)
    (rest : List Answer) : s.drained ix cs rest = s.drainChunk cs.flatten rest .closeIn := by
  simp only [State.drained, State.drainChunk, h, drainTransactions_one, State.chunkSize, State.room]

/-- What the reads after the first chunk leave is what all of them leave. -/
theorem State.drained_cons {s : State} {ix next : ReadIx} {c : List Byte} {cs : List (List Byte)} {rest : List Answer}
    (hnext : ix.following = some next) (hfit : s.rxlen.toNat + c.length < 65536) (as : List Answer) (p : BmsPos) :
    (s.drainChunk c as p).drained next cs rest = s.drained ix (c :: cs) rest := by
  have hchunks : s.chunks + 1#3 + BitVec.ofNat 3 (drainReads next cs) =
      s.chunks + BitVec.ofNat 3 (drainReads next cs + 1) := by
    rw [BitVec.add_assoc, BitVec.ofNat_add, BitVec.add_comm 1#3]
  simp only [State.drained, State.drainChunk, drainReads_cons hnext, drainTransactions_succ, hchunks, List.flatten_cons,
    List.length_append, Memory.writeRange_append, BitVec.toNat_ofNat, Nat.mod_eq_of_lt hfit, Nat.add_assoc,
    List.append_assoc, List.cons_append, List.nil_append]
  rfl

/-- The drain reads, three engine steps each: a wait, a read, and the step after it (R204). -/
theorem runSteps_drains {rest : List Answer} (cs : List (List Byte)) : ∀ (s : State) (ix : ReadIx) (n : Nat),
    s.Drains ix cs rest → runSteps (n + 3 * drainReads ix cs) s = runSteps n (s.drained ix cs rest) := by
  induction cs with
  | nil =>
    intro s ix n h
    have ha := h.answers
    rw [drainAnswers_nil] at ha
    rw [drainReads_nil, State.drained_of_one (drainReads_nil ix)]
    exact runSteps_drain_empty h.alone h.seq ha h.drain
  | cons c cs ih =>
    intro s ix n h
    obtain ⟨_, hcap, _, _⟩ := params_bounds h.params
    have hne := h.nonempty c List.mem_cons_self
    have hlen := h.bounded c List.mem_cons_self
    have ha := h.answers
    have hfits := h.fits
    rw [List.flatten_cons, List.length_append] at hfits
    cases hnext : ix.following with
    | some next =>
      rw [drainAnswers_cons hnext] at ha
      rw [drainReads_cons hnext]
      refine Eq.trans (runSteps_drain_chunk h.alone h.params h.seq ha hlen (by omega) hne) ?next
      rw [hnext]
      exact (ih _ next n (h.next hnext)).trans (congrArg _ (State.drained_cons hnext (by omega) _ _))
    | none =>
      obtain rfl := ReadIx.eq_d3_of_following hnext
      obtain rfl : cs = [] := List.eq_nil_of_length_eq_zero (Nat.le_zero.1 (Nat.le_of_succ_le_succ h.reads))
      rw [State.drained_of_one rfl, List.flatten_singleton]
      exact runSteps_drain_chunk h.alone h.params h.seq ha hlen (by omega) hne

/-! ### The whole exchange -/

/-- The first read and the drain reads: the chunks one after the other in RXBUF, every read counted (R204, R205). -/
theorem runSteps_bmsXchg_receive {n : Nat} {s : State} {c0 : List Byte} {cs : List (List Byte)} {rest : List Answer}
    (hal : s.engineAlone) (hp : s.params.wf = true) (hs : s.seq = .bmsXchg (.read .first)) (hrxlen : s.rxlen = 0#16)
    (hchunks : s.chunks = 0#3) (ha : s.answers = .ok c0 :: (drainAnswers .d1 cs ++ rest)) (hreads : cs.length ≤ 3)
    (hne : ∀ c ∈ cs, c ≠ []) (hlen : ∀ c ∈ c0 :: cs, c.length ≤ s.params.chunkMax)
    (hfit : (c0 ++ cs.flatten).length < s.params.rxcap) :
    runSteps (n + 3 * drainReads .d1 cs + 2) s = runSteps n { s with
      rxbuf := Memory.writeRange s.rxbuf 0 (c0 ++ cs.flatten), rxlen := BitVec.ofNat 16 (c0 ++ cs.flatten).length
      chunks := BitVec.ofNat 3 (1 + drainReads .d1 cs), answers := rest
      port := s.port ++ .read (min s.params.chunkMax s.params.rxcap) .bmsRdTimeout ::
        drainTransactions s.params c0.length cs (drainReads .d1 cs)
      seq := .bmsXchg .closeIn } := by
  obtain ⟨_, hcap, _, _⟩ := params_bounds hp
  have hzero : s.rxlen.toNat = 0 := by rw [hrxlen]; rfl
  rw [List.length_append] at hfit
  have hc0 : (BitVec.ofNat 16 c0.length).toNat = c0.length := by
    rw [BitVec.toNat_ofNat]
    omega
  have hcount : 0#3 + 1#3 + BitVec.ofNat 3 (drainReads .d1 cs) = BitVec.ofNat 3 (1 + drainReads .d1 cs) := by
    rw [BitVec.ofNat_add, BitVec.zero_add]
  refine Eq.trans (runSteps_read_chunk hal hp hs ha (hlen c0 List.mem_cons_self) (by omega) (.inl rfl)) ?drain
  refine Eq.trans (runSteps_drains cs _ .d1 n {
    alone := hal
    params := hp
    seq := rfl
    drain := nofun
    reads := hreads
    nonempty := hne
    bounded := fun c hc => hlen c (List.mem_cons_of_mem c0 hc)
    fits := by simp only [hzero, Nat.zero_add, hc0]; exact hfit
    answers := rfl }) (congrArg _ ?close)
  simp only [State.drained, hc0, hzero, hchunks, hcount, State.chunkSize, State.room, Memory.writeRange_append,
    List.length_append, List.append_assoc, List.cons_append, List.nil_append, Nat.zero_add, Nat.sub_zero]

/-- The closing clear answered Ok, then the result for the bytes received (R206, R212). -/
theorem runSteps_bmsXchg_closing {s : State} {x f : List Byte} {rest : List Answer} (hal : s.engineAlone)
    (hs : s.seq = .bmsXchg .closeIn) (ha : s.answers = .ok x :: rest) (hf : s.rxIs f) :
    runSteps 2 s =
      .next (State.ended { s with port := s.port ++ [.clearIn], answers := rest } (bmsVerdict f).code) := by
  refine Eq.trans (runSteps_bmsXchg hal hs (State.transact_of_ok _ _ _ ha)) ?finish
  exact runSteps_bmsXchg hal rfl (State.finishBms_eq hf)

/-- The code of R206 for the bytes received. -/
theorem bmsVerdict_code (f : List Byte) :
    (bmsVerdict f).code = if f = [] then 1#4 else if verifySum8 f = true then 0#4 else 5#4 := by
  unfold bmsVerdict
  simp only [List.length_eq_zero_iff]
  split
  · rfl
  · split <;> rfl

/-- Settles O40: the opening, the reads, and the closing clear with the check of what was received. -/
theorem bmsXchgReassemblesChunks : Obligations.BmsXchgReassemblesChunks := by
  intro s w p x1 x2 x3 x5 c0 f cs rest hal hp hs hd hcmd hplen hpay hreads hne hlen hf hfit ha
  subst hf
  obtain ⟨_, hcap, _, _⟩ := params_bounds hp
  have hlegal := (bmsLegal_iff s.latch.bcmd).2 hcmd
  have hpayload := State.payload_eq_some_iff.2 ⟨hplen, hpay⟩
  have hfew : drainReads .d1 cs ≤ 3 := Nat.min_le_left _ _
  have hcount : 1 + drainReads .d1 cs = min 4 (cs.length + 2) := by
    simp only [drainReads, ReadIx.index]
    omega
  have hreceived : (c0 ++ cs.flatten).length < 65536 := by omega
  have hrun := calc runSteps (5 + (2 + 3 * drainReads .d1 cs + 2)) s
    _ = runSteps (2 + 3 * drainReads .d1 cs + 2) _ :=
      runSteps_add (runSteps_bmsXchg_opening hal hs hd hlegal hpayload ha)
    _ = runSteps 2 _ :=
      runSteps_bmsXchg_receive (rest := .ok x5 :: rest) hal hp rfl rfl rfl rfl hreads hne hlen hfit
    _ = .next _ := runSteps_bmsXchg_closing hal rfl rfl (State.rxIs_of_stored rfl rfl hreceived)
  refine ⟨_, _, by omega, hrun, ?_, ?_, ?_, ?_, ?_, ?_⟩
  · rw [bmsVerdict_code, hcount]
    rfl
  · exact buildBms_holds hplen hpay
  · exact fun k hk => buildBms_frame hk
  · exact holds_writeRange s.rxbuf 0 _
  · exact fun k hk => read_writeRange_outside s.rxbuf 0 k _ (.inr (by omega))
  · simp only [State.ended, State.buildBms_params, drainTransactions_eq_take, drainReads, ReadIx.index,
      List.append_assoc, List.cons_append, List.nil_append]

end Sys2Proof.Machine

/-!
PROOFS. The family of spec/30_encoding.md: the round trips between commands and command words (O1, O2), the bits that
decoding ignores (O3), the OPs outside the map (O4), and a few words written out (O5).
-/
namespace Sys2Proof

/-! ### Decoding an encoded command -/

/-- The laws of Laws/PerInstr.lean, for every command. -/
theorem canonicalEncoding (i : Instr) : Laws.CanonicalEncoding.Statement i := by
  cases i with
  | crcInit => exact Laws.CanonicalEncoding.crcInit
  | crcByte arg => exact Laws.CanonicalEncoding.crcByte arg
  | crcTx => exact Laws.CanonicalEncoding.crcTx
  | crcChk => exact Laws.CanonicalEncoding.crcChk
  | mbBuild => exact Laws.CanonicalEncoding.mbBuild
  | mbDecode => exact Laws.CanonicalEncoding.mbDecode
  | mbRead => exact Laws.CanonicalEncoding.mbRead
  | bmsBuild => exact Laws.CanonicalEncoding.bmsBuild
  | bmsCheck => exact Laws.CanonicalEncoding.bmsCheck
  | bmsXchg => exact Laws.CanonicalEncoding.bmsXchg
  | clrStatus => exact Laws.CanonicalEncoding.clrStatus

/-- The encoder puts ARG into bits [15:8] (R90). -/
theorem argField_encode (i : Instr) : argField (encode i) = i.arg := by
  apply BitVec.eq_of_toNat_eq
  rw [argField_toNat, encode_toNat]
  have hop := i.opcode.isLt
  have harg := i.arg.isLt
  omega

theorem decode_encode (i : Instr) : decode (encode i) = .ok i := by
  obtain ⟨-, -, hop, hdec⟩ := canonicalEncoding i
  unfold decode
  rw [hop, argField_encode, hdec]

/-- Settles O1. -/
theorem decodeOfEncode : Obligations.DecodeOfEncode := by
  intro i rest
  obtain ⟨-, hcanonical, -, -⟩ := canonicalEncoding i
  refine ⟨decode_encode i, ?_, hcanonical⟩
  rw [decodeBytes_wordBytes, decode_encode]

/-! ### The masks of OP and ARG -/

theorem toNat_and_op_mask (w : Word) : (w &&& 0xFF#32).toNat = w.toNat % 256 := by
  rw [BitVec.toNat_and]
  exact Nat.and_two_pow_sub_one_eq_mod w.toNat 8

theorem toNat_and_op_arg_mask (w : Word) : (w &&& 0xFFFF#32).toNat = w.toNat % 65536 := by
  rw [BitVec.toNat_and]
  exact Nat.and_two_pow_sub_one_eq_mod w.toNat 16

/-- A word with CRC_BYTE's OP, said with the mask and with the field (R92). -/
theorem and_op_mask_eq_two_iff (w : Word) : w &&& 0xFF#32 = 2#32 ↔ opField w = 2#8 := by
  rw [← BitVec.toNat_inj, ← BitVec.toNat_inj, toNat_and_op_mask, opField_toNat]
  rfl

theorem opField_and_op_mask (w : Word) : opField (w &&& 0xFF#32) = opField w := by
  unfold opField
  rw [BitVec.extractLsb'_and]
  exact BitVec.and_allOnes

theorem argField_and_arg_mask (w : Word) : argField (w &&& 0xFF00#32) = argField w := by
  unfold argField
  rw [BitVec.extractLsb'_and]
  exact BitVec.and_allOnes

/-- Settles O2: a decoded word's fields are the command's OP and ARG, and nothing else is encoded. -/
theorem encodeOfDecodeClearsIgnoredBits : Obligations.EncodeOfDecodeClearsIgnoredBits := by
  intro w i hd
  obtain ⟨hop, harg⟩ := decode_fields hd
  apply BitVec.eq_of_toNat_eq
  rw [encode_toNat, ← hop, harg]
  by_cases hbyte : opField w = 2#8
  · rw [if_pos hbyte, if_pos ((and_op_mask_eq_two_iff w).2 hbyte), toNat_and_op_arg_mask, argField_toNat, opField_toNat]
    omega
  · rw [if_neg hbyte, if_neg (mt (and_op_mask_eq_two_iff w).1 hbyte), toNat_and_op_mask, opField_toNat,
      BitVec.toNat_zero, Nat.mul_zero, Nat.zero_add]

/-- Only CRC_BYTE reads ARG (R91). -/
theorem decodeOp_ignores_arg {op : Byte} (h : op ≠ 2#8) (a b : Byte) : decodeOp op a = decodeOp op b := by
  unfold decodeOp
  rw [if_neg h, if_neg h]

/-- Nothing but OP, and ARG for CRC_BYTE, is read (R91). -/
theorem decode_congr {w v : Word} (hop : opField w = opField v) (harg : opField v = 2#8 → argField w = argField v) :
    decode w = decode v := by
  have hmap : decodeOp (opField v) (argField w) = decodeOp (opField v) (argField v) := by
    by_cases hbyte : opField v = 2#8
    · rw [harg hbyte]
    · exact decodeOp_ignores_arg hbyte _ _
  unfold decode
  rw [hop, hmap]

/-- Settles O3: the masked words determine the fields that decoding reads. -/
theorem decodeIgnoresReservedBits : Obligations.DecodeIgnoresReservedBits := by
  intro w v hop harg
  have hopField : opField w = opField v := by
    rw [← opField_and_op_mask w, hop, opField_and_op_mask]
  refine decode_congr hopField fun hbyte => ?_
  rw [← argField_and_arg_mask w, harg ((and_op_mask_eq_two_iff w).2 (hopField.trans hbyte)), argField_and_arg_mask]

/-! ### The opcode map -/

/-- The OPs of R92, as numbers. -/
def opcodeMap : List Nat := [0x01, 0x02, 0x03, 0x04, 0x10, 0x11, 0x12, 0x20, 0x21, 0x22, 0xF0]

theorem Instr.opcode_mem_opcodeMap (i : Instr) : i.opcode.toNat ∈ opcodeMap := by
  cases i <;> simp [Instr.opcode, opcodeMap]

/-- Each OP of the map is some command's. -/
theorem exists_opcode_of_mem_opcodeMap {n : Nat} (h : n ∈ opcodeMap) : ∃ i : Instr, i.opcode.toNat = n := by
  have hall : opcodeMap = [Instr.crcInit, .crcByte 0#8, .crcTx, .crcChk, .mbBuild, .mbDecode, .mbRead, .bmsBuild,
      .bmsCheck, .bmsXchg, .clrStatus].map fun i => i.opcode.toNat := rfl
  rw [hall] at h
  obtain ⟨i, -, hi⟩ := List.mem_map.1 h
  exact ⟨i, hi⟩

/-- A command's OP names a command whatever ARG is: the same one, but for CRC_BYTE, which takes ARG from the word. -/
theorem exists_decodeOp_opcode (i : Instr) (arg : Byte) : ∃ j, decodeOp i.opcode arg = some j := by
  cases i <;> exact ⟨_, rfl⟩

/-- The words that decode to a command are those whose OP is in the map (R92, R93). -/
theorem exists_decode_iff (w : Word) : (∃ i, decode w = .ok i) ↔ w.toNat % 256 ∈ opcodeMap := by
  rw [← opField_toNat]
  constructor
  · rintro ⟨i, hd⟩
    obtain ⟨hop, -⟩ := decode_fields hd
    rw [hop]
    exact i.opcode_mem_opcodeMap
  · intro hmem
    obtain ⟨i, hi⟩ := exists_opcode_of_mem_opcodeMap hmem
    obtain ⟨j, hj⟩ := exists_decodeOp_opcode i (argField w)
    refine ⟨j, ?_⟩
    unfold decode
    rw [← BitVec.eq_of_toNat_eq hi, hj]

namespace Machine

/-- The engine step of a word that is no command completes with IllegalCommand (R252). -/
theorem step_of_decode_error {s : State} {w : Word} {e : DecodeError} (hr : s.rst = false) (ht : s.nextTurn = .engine)
    (hs : s.seq = .start w) (hd : decode w = .error e) : step s = .next (s.popTurn.ended 8#4) := by
  rw [step_engine hr ht, State.fetch_of_start hs, hd]
  exact congrArg Host.Outcome.next (State.complete_eq_ended s.popTurn .illegalCommand)

/-- Settles O4. -/
theorem illegalOpCompletesWithIllegalCommand : Obligations.IllegalOpCompletesWithIllegalCommand := by
  refine ⟨fun w hmem => (exists_decode_iff w).2 hmem, fun w s hmem hr ht hs => ?_⟩
  cases hd : decode w with
  | ok i => exact absurd ((exists_decode_iff w).1 ⟨i, hd⟩) hmem
  | error e => exact ⟨⟨e, rfl⟩, step_of_decode_error hr ht hs hd⟩

end Machine

/-- Settles O5: the decoder evaluates on each word. -/
theorem sampleWordsDecode : Obligations.SampleWordsDecode :=
  ⟨rfl, rfl, rfl, rfl, rfl, rfl, rfl, rfl⟩

end Sys2Proof

/-!
PROOFS. The family of spec/40_crc.md: the CRC-16 arithmetic (O18 to O21) and the four commands of the generator (O22 to
O25).
-/
namespace Sys2Proof.Machine

/-! ### The arithmetic of a CRC step -/

/-- One shift of R120 as a halving of numbers. -/
theorem crcShift_eq_halving : crcShift = fun x : Half =>
    if x.toNat % 2 = 1 then BitVec.ofNat 16 (x.toNat / 2) ^^^ 0xA001#16 else BitVec.ofNat 16 (x.toNat / 2) := by
  funext x
  have hodd : x.getLsbD 0 = true ↔ x.toNat % 2 = 1 := by simp [BitVec.getLsbD, Nat.testBit_zero]
  have hhalf : x >>> 1 = BitVec.ofNat 16 (x.toNat / 2) := by
    apply BitVec.eq_of_toNat_eq
    rw [BitVec.toNat_ushiftRight, Nat.shiftRight_eq_div_pow, pow_one, BitVec.toNat_ofNat]
    omega
  simp only [crcShift, hodd, hhalf]

/-- A CRC step is the byte folded in, then eight shifts (R120). -/
theorem crcStep_eq_iterate (c : Half) (b : Byte) : crcStep c b = crcShift^[8] (c ^^^ b.setWidth 16) := rfl

/-- Settles O18. -/
theorem crcStepIsEightShifts : Obligations.CrcStepIsEightShifts := by
  intro c b
  rw [crcStep_eq_iterate, crcShift_eq_halving, BitVec.ofNat_toNat]

theorem crc16_append_singleton (s : List Byte) (b : Byte) : crc16 (s ++ [b]) = crcStep (crc16 s) b :=
  List.foldl_concat ..

/-- Settles O19. -/
theorem crcOfAppendedByte : Obligations.CrcOfAppendedByte :=
  ⟨rfl, crc16_append_singleton⟩

/-! ### Frames that verify -/

/-- A frame of fewer than three bytes does not verify (R122). -/
theorem verifyCrc16_of_length_lt {f : List Byte} (h : f.length < 3) : verifyCrc16 f = false := if_pos h

/-- A frame verifies when its last two bytes, low byte first, are the number that is the CRC of its body (R122). -/
theorem verifyCrc16_append_iff {body : List Byte} {lo hi : Byte} (hbody : body ≠ []) :
    verifyCrc16 (body ++ [lo, hi]) = true ↔ lo.toNat + 256 * hi.toNat = (crc16 body).toNat := by
  have hcrc := half_of_bytes (crc16 body)
  rw [verifyCrc16_append body lo hi hbody, Bool.and_eq_true, beq_iff_eq, beq_iff_eq]
  constructor
  · rintro ⟨rfl, rfl⟩
    exact hcrc
  · intro h
    constructor <;> apply BitVec.eq_of_toNat_eq <;> omega

/-- Settles O20. -/
theorem crcRoundTripVerifies : Obligations.CrcRoundTripVerifies := by
  refine ⟨fun s hs => ?_, verifyCrc16_of_length_lt (by decide)⟩
  rw [ofNat_toNat_eq_lowByte, ofNat_toNat_eq_highByte]
  exact (verifyCrc16_append_iff hs).2 (half_of_bytes (crc16 s))

/-! ### A changed byte is detected -/

/-- Sequences that differ in one byte differ in their CRC: every step after that byte is injective. -/
theorem crc16_append_cons_injective {us vs : List Byte} {x y : Byte}
    (h : crc16 (us ++ x :: vs) = crc16 (us ++ y :: vs)) : x = y := by
  simp only [crc16, List.foldl_append, List.foldl_cons] at h
  exact crcStep_injective_right (foldl_crcStep_injective vs h)

theorem crc16_set_ne {s : List Byte} {i : Nat} {x y : Byte} (hx : s[i]? = some x) (hxy : y ≠ x) :
    crc16 (s.set i y) ≠ crc16 s := by
  obtain ⟨hi, rfl⟩ := List.getElem?_eq_some_iff.1 hx
  have hsplit : s = s.take i ++ s[i] :: s.drop (i + 1) := by
    rw [List.getElem_cons_drop, List.take_append_drop]
  intro h
  rw [List.set_eq_take_append_cons_drop, if_pos hi] at h
  exact hxy (crc16_append_cons_injective (h.trans (congrArg crc16 hsplit)))

/-- A frame that verifies is a non-empty body and two bytes (R122). -/
theorem exists_body_of_verifyCrc16 {f : List Byte} (h : verifyCrc16 f = true) :
    ∃ body lo hi, body ≠ [] ∧ f = body ++ [lo, hi] := by
  have hlen := length_of_verifyCrc16 h
  obtain ⟨lo, hi, hlast⟩ := List.length_eq_two.1 (show (f.drop (f.length - 2)).length = 2 by
    rw [List.length_drop]; omega)
  refine ⟨f.take (f.length - 2), lo, hi, List.ne_nil_of_length_pos ?_, ?_⟩
  · rw [List.length_take]; omega
  · rw [← hlast, List.take_append_drop]

/-- Any change of one byte of a frame that verifies, be it in the body or in the CRC, is detected. -/
theorem verifyCrc16_set_eq_false {f : List Byte} {i : Nat} {x y : Byte} (hv : verifyCrc16 f = true)
    (hx : f[i]? = some x) (hxy : y ≠ x) : verifyCrc16 (f.set i y) = false := by
  obtain ⟨body, lo, hi, hbody, rfl⟩ := exists_body_of_verifyCrc16 hv
  rw [verifyCrc16_append_iff hbody] at hv
  have hne : y.toNat ≠ x.toNat := fun e => hxy (BitVec.eq_of_toNat_eq e)
  rw [← Bool.not_eq_true]
  by_cases hin : i < body.length
  · have hbody' : body.set i y ≠ [] := by simpa using hbody
    rw [List.getElem?_append_left hin] at hx
    rw [List.set_append_left _ _ hin, verifyCrc16_append_iff hbody', hv]
    exact fun e => crc16_set_ne hx hxy (BitVec.eq_of_toNat_eq e.symm)
  · obtain ⟨k, rfl⟩ := Nat.exists_eq_add_of_le (Nat.le_of_not_lt hin)
    rw [List.getElem?_append_right (by omega), Nat.add_sub_cancel_left] at hx
    rw [List.set_append_right _ _ (by omega), Nat.add_sub_cancel_left]
    match k with
    | 0 =>
      cases hx
      rw [List.set_cons_zero, verifyCrc16_append_iff hbody]
      omega
    | 1 =>
      cases hx
      rw [List.set_cons_succ, List.set_cons_zero, verifyCrc16_append_iff hbody]
      omega
    | k + 2 => cases hx

/-- Flipping a bit changes a byte. -/
theorem xor_one_shiftLeft_ne (x : Byte) {b : Nat} (hb : b < 8) : x ^^^ (1#8 <<< b) ≠ x := by
  have hbit : (x ^^^ (1#8 <<< b)).getLsbD b = !x.getLsbD b := by simp [hb]
  intro h
  rw [h] at hbit
  exact (Bool.eq_not_self _).1 hbit

/-- Settles O21. -/
theorem crcDetectsSingleBitFlip : Obligations.CrcDetectsSingleBitFlip :=
  fun _ _ _ x hv hx hb => verifyCrc16_set_eq_false hv hx (xor_one_shiftLeft_ne x hb)

/-! ### CRC_INIT and CRC_BYTE -/

/-- Settles O22. -/
theorem crcInitResult : Obligations.CrcInitResult :=
  ⟨fun _ hw => decode_of_op (by decide) hw fun _ => rfl,
    fun s => congrArg Host.Outcome.next (State.complete_eq_ended { s with crc := 0xFFFF#16 } .ok)⟩

theorem argField_eq_ofNat (w : Word) : argField w = BitVec.ofNat 8 (w.toNat / 256) := by
  apply BitVec.eq_of_toNat_eq
  rw [argField_toNat, BitVec.toNat_ofNat]

/-- CRC_BYTE takes its operand from ARG (R91). -/
theorem decode_crcByte {w : Word} (h : w.toNat % 256 = 0x02) : decode w = .ok (.crcByte (argField w)) := by
  unfold decode
  rw [opField_of_mod (by decide) h]
  rfl

/-- Settles O23. -/
theorem crcByteResult : Obligations.CrcByteResult := by
  refine ⟨fun w hw => ?_, fun b s => ?_⟩
  · rw [decode_crcByte hw, argField_eq_ofNat]
  · exact congrArg Host.Outcome.next (State.complete_eq_ended { s with crc := crcStep s.crc b } .ok)

/-! ### CRC_TX -/

theorem State.txBytes_eq_none_iff {s : State} :
    s.txBytes = none ↔ ∃ k, k < s.txlen.toNat ∧ Memory.read s.txbuf k = none := by
  unfold State.txBytes
  rw [Memory.readRange_eq_none]
  simp only [Nat.zero_add]

theorem execCrcTx_of_txBytes {s : State} {f : List Byte} (h : s.txBytes = some f) :
    execCrcTx s = .next (State.ended { s with crc := crc16 f } 0#4) := by
  unfold execCrcTx
  rw [h]
  rfl

theorem execCrcTx_fault {s : State} (h : s.txBytes = none) : execCrcTx s = .fault (.uninitRead .txbuf) := by
  unfold execCrcTx
  rw [h]

/-- Settles O24. -/
theorem crcTxResult : Obligations.CrcTxResult :=
  ⟨fun _ hw => decode_of_op (by decide) hw fun _ => rfl,
    fun _ _ hlen hf => execCrcTx_of_txBytes (State.txBytes_eq_some_iff.2 ⟨hlen, hf⟩),
    fun _ hhole => execCrcTx_fault (State.txBytes_eq_none_iff.2 hhole)⟩

/-! ### CRC_CHK -/

/-- A frame without room for a body and a CRC fails, and CRC stays (R127). -/
theorem execCrcChk_of_short {s : State} {f : List Byte} (h : s.rxIs f) (hlen : f.length < 3) :
    execCrcChk s = .next (State.ended { s with crcOk := false } 3#4) := by
  unfold execCrcChk
  simp only [State.rxBytes_eq_some_iff.2 h, verifyCrc16_of_length_lt hlen, if_pos hlen]
  rfl

theorem bodyCrc_append (body : List Byte) (lo hi : Byte) : bodyCrc (body ++ [lo, hi]) = crc16 body := by
  simp [bodyCrc]

/-- With a body, CRC becomes the body's CRC, and the verdict is that of `verifyCrc16` (R127). -/
theorem execCrcChk_of_body {s : State} {body : List Byte} {lo hi : Byte} (h : s.rxIs (body ++ [lo, hi]))
    (hbody : body ≠ []) :
    execCrcChk s =
      .next (State.ended { s with crc := crc16 body, crcOk := verifyCrc16 (body ++ [lo, hi]) }
        (if verifyCrc16 (body ++ [lo, hi]) = true then 0#4 else 3#4)) := by
  have hlen : ¬ (body ++ [lo, hi]).length < 3 := by
    have := List.length_pos_iff.2 hbody
    simp only [List.length_append, List.length_cons, List.length_nil]
    omega
  unfold execCrcChk
  simp only [State.rxBytes_eq_some_iff.2 h, if_neg hlen, bodyCrc_append, State.complete_eq_ended]
  split <;> rfl

theorem execCrcChk_fault {s : State} (h : s.rxHole) : execCrcChk s = .fault (.uninitRead .rxbuf) := by
  unfold execCrcChk
  rw [State.rxBytes_eq_none_iff.2 h]

/-- Settles O25. -/
theorem crcChkResult : Obligations.CrcChkResult := by
  refine ⟨fun w hw => decode_of_op (by decide) hw fun _ => rfl, fun s f hf hlen => execCrcChk_of_short hf hlen,
    fun s body lo hi hf hbody => ⟨fun heq => ?_, fun hne => ?_⟩, fun s hhole => execCrcChk_fault hhole⟩
  · have hv := (verifyCrc16_append_iff hbody).2 heq
    exact (execCrcChk_of_body hf hbody).trans (by rw [hv]; rfl)
  · have hv := Bool.eq_false_of_not_eq_true (mt (verifyCrc16_append_iff hbody).1 hne)
    exact (execCrcChk_of_body hf hbody).trans (by rw [hv]; rfl)

end Sys2Proof.Machine

/-!
PROOFS. The family of spec/41_modbus.md: MB_BUILD (O26), the build step of MB_READ (O29, O30) and MB_DECODE (O27).
-/
namespace Sys2Proof.Machine

/-! ### The request in TXBUF -/

/-- The header bytes of R150 as numbers. -/
theorem mbHeader_eq_ofNat (slave func : Byte) (start count : Half) :
    mbHeader slave func start count = [slave, func, BitVec.ofNat 8 (start.toNat / 256), BitVec.ofNat 8 start.toNat,
      BitVec.ofNat 8 (count.toNat / 256), BitVec.ofNat 8 count.toNat] := by
  simp only [ofNat_toNat_eq_highByte, ofNat_toNat_eq_lowByte, mbHeader]

/-- The CRC's low byte goes first (R64). -/
theorem crcBytes_eq_ofNat (c : Half) : crcBytes c = [BitVec.ofNat 8 c.toNat, BitVec.ofNat 8 (c.toNat / 256)] := by
  simp only [ofNat_toNat_eq_highByte, ofNat_toNat_eq_lowByte, crcBytes]

/-- After a Modbus build TXBUF[0..8) is the request (R150, R160). -/
theorem buildMb_holds (s : State) :
    Holds s.buildMb.txbuf 0 (mbRequest s.latch.slave s.latch.func s.latch.start s.latch.count) :=
  holds_writeRange s.txbuf 0 _

/-- A Modbus build leaves TXBUF from 8 on as it is. -/
theorem buildMb_frame {s : State} {k : Nat} (hk : 8 ≤ k) :
    Memory.read s.buildMb.txbuf k = Memory.read s.txbuf k :=
  read_writeRange_outside s.txbuf 0 k _ (.inr (by rw [mbRequest_length]; omega))

/-! ### MB_BUILD -/

theorem exec_mbBuild_of_legal {s : State} (h : mbLegal s.latch.func s.latch.count = true) :
    exec .mbBuild s = .next (s.buildMb.ended 0#4) := if_pos h

theorem exec_mbBuild_of_illegal {s : State} (h : mbLegal s.latch.func s.latch.count = false) :
    exec .mbBuild s = .next (s.ended 6#4) := if_neg (by simp [h])

/-- Settles O26. -/
theorem mbBuildResult : Obligations.MbBuildResult := by
  refine ⟨fun w hw => decode_of_op (by decide) hw fun _ => rfl, fun s hfunc hcount => ?_, fun s hbad => ?_⟩
  · have hlegal := (mbLegal_iff s.latch.func s.latch.count).2 ⟨hfunc, hcount⟩
    have hheader := mbHeader_eq_ofNat s.latch.slave s.latch.func s.latch.start s.latch.count
    refine ⟨_, s.buildMb.privCrc, exec_mbBuild_of_legal hlegal, rfl, congrArg crc16 hheader, ?_,
      fun k hk => buildMb_frame hk⟩
    have hholds := buildMb_holds s
    rw [mbRequest, crcBytes_eq_ofNat, ← State.buildMb_privCrc, hheader] at hholds
    exact hholds
  · exact exec_mbBuild_of_illegal ((mbLegal_eq_false_iff _ _).2 hbad)

/-! ### The build step of MB_READ -/

/-- MB_READ refuses an illegal request, and one whose response RXBUF cannot hold (R151, R153, R156). -/
theorem mbReadBuild_of_refused {s : State}
    (h : mbLegal s.latch.func s.latch.count = false ∨ s.params.rxcap < mbExpected s.latch.count) :
    mbReadBuild s = .next (State.ended { s with regcnt := 0#16, exc := 0#8 } 6#4) := by
  unfold mbReadBuild
  split
  · rfl
  next hlegal => exact if_pos (h.resolve_left hlegal)

/-- Settles O29. -/
theorem mbReadRefusesBadRequest : Obligations.MbReadRefusesBadRequest := by
  intro s w hs hbad
  rw [← or_assoc, ← mbLegal_eq_false_iff] at hbad
  exact (exec_mbRead_start hs).trans (mbReadBuild_of_refused hbad)

/-- Settles O30. -/
theorem mbReadBuildStep : Obligations.MbReadBuildStep := by
  refine ⟨fun w hw => decode_of_op (by decide) hw fun _ => rfl, fun s w hs hfunc hcount hcap => ?_⟩
  have hadmitted : s.mbAdmitted := ⟨(mbLegal_iff _ _).2 ⟨hfunc, hcount⟩, hcap⟩
  exact ⟨_, s.buildMb.privCrc, _, (exec_mbRead_start hs).trans (mbReadBuild_of_admitted hadmitted),
    mbRequest_length .., rfl, rfl, buildMb_holds s, fun k hk => buildMb_frame hk⟩

/-! ### The steps of `mbDecode` past the exception check -/

section

variable {f : List Byte} (hne : f ≠ []) (hx : ¬ (3 ≤ f.length ∧ exceptionFlag (byteAt f 1) = true))
include hne hx

/-- A response that is no exception is judged by its CRC, then by its length (R154 steps 3 to 5). -/
theorem mbDecode_of_no_exception : mbDecode f =
    if verifyCrc16 f = false then .frameCorrupt
    else if f.length < 5 + (byteAt f 2).toNat then .frameTooShort
    else .ok (pairRegs ((f.drop 3).take (byteAt f 2).toNat)) := by
  have hlen : f.length ≠ 0 := by simpa using hne
  rw [mbDecode, if_neg hlen, if_neg hx]
  refine if_congr Iff.rfl rfl ?_
  by_cases h5 : f.length < 5
  · rw [if_pos h5, if_pos (by omega)]
  · rw [if_neg h5]
    exact if_congr (by omega) rfl rfl

theorem mbDecode_of_corrupt (hv : verifyCrc16 f = false) : mbDecode f = .frameCorrupt := by
  rw [mbDecode_of_no_exception hne hx, if_pos hv]

theorem mbDecode_of_truncated (hv : verifyCrc16 f = true) (hlen : f.length < 5 + (byteAt f 2).toNat) :
    mbDecode f = .frameTooShort := by
  rw [mbDecode_of_no_exception hne hx, if_neg (by simp [hv]), if_pos hlen]

theorem mbDecode_of_complete (hv : verifyCrc16 f = true) (hlen : 5 + (byteAt f 2).toNat ≤ f.length) :
    mbDecode f = .ok (pairRegs ((f.drop 3).take (byteAt f 2).toNat)) := by
  rw [mbDecode_of_no_exception hne hx, if_neg (by simp [hv]), if_neg (Nat.not_lt.2 hlen)]

end

/-! ### The registers of a response -/

/-- Two bytes as one register, the first one high (R155). -/
theorem byte_append_byte_eq_ofNat (hi lo : Byte) : (hi ++ lo : Half) = BitVec.ofNat 16 (256 * hi.toNat + lo.toNat) := by
  apply BitVec.eq_of_toNat_eq
  rw [toNat_concat, BitVec.toNat_ofNat]
  omega

theorem pairRegs_payload_length {f : List Byte} {n : Nat} (h : 3 + n ≤ f.length) :
    (pairRegs ((f.drop 3).take n)).length = n / 2 := by
  rw [pairRegs_length, List.length_take, List.length_drop, Nat.min_eq_left (by omega)]

/-- Register `k` of a response is the bytes `3 + 2k` and `4 + 2k` of its frame (R95, R155). -/
theorem pairRegs_payload_getElem? {f : List Byte} {n k : Nat} (h : 3 + n ≤ f.length) (hk : k < n / 2) :
    ∃ hi lo, f[3 + 2 * k]? = some hi ∧ f[4 + 2 * k]? = some lo ∧
      (pairRegs ((f.drop 3).take n))[k]? = some (BitVec.ofNat 16 (256 * hi.toNat + lo.toNat)) := by
  have hhi : f[3 + 2 * k]? = some f[3 + 2 * k] := List.getElem?_eq_getElem (by omega)
  have hlo : f[4 + 2 * k]? = some f[4 + 2 * k] := List.getElem?_eq_getElem (by omega)
  refine ⟨_, _, hhi, hlo, ?_⟩
  rw [← byte_append_byte_eq_ofNat]
  apply pairRegs_getElem?
  · rw [List.getElem?_take_of_lt (by omega), List.getElem?_drop, hhi]
  · rw [List.getElem?_take_of_lt (by omega), List.getElem?_drop, ← hlo]
    congr 1
    omega

/-! ### MB_DECODE -/

/-- With every byte received written, MB_DECODE ends with `mbDecode` of them (R154, R161). -/
theorem exec_mbDecode_of_rxIs {s : State} {f : List Byte} {r : MbResult} (h : s.rxIs f) (hr : mbDecode f = r) :
    exec .mbDecode s = .next (State.finishMb { s with privCrc := (mbDecodeCrc f).getD s.privCrc } r) :=
  hr ▸ State.finishDecode_eq (State.decodeRx_of_rxIs h)

/-- Where no exception code shows in RXBUF, none shows in the bytes received. -/
theorem no_exception_of_rxIs {s : State} {f : List Byte} (h : s.rxIs f) (hx : ∀ code, ¬ s.rxException code) :
    ¬ (3 ≤ f.length ∧ exceptionFlag (byteAt f 1) = true) := by
  obtain ⟨hlen, hholds⟩ := h
  rintro ⟨h3, hflag⟩
  have hecho : f[1]? = some f[1] := List.getElem?_eq_getElem (by omega)
  have hcode : f[2]? = some f[2] := List.getElem?_eq_getElem (by omega)
  rw [byteAt_of_getElem? hecho, exceptionFlag_iff] at hflag
  exact hx f[2] ⟨by omega, f[1], (hholds 1 (by omega)).trans hecho, hflag, (hholds 2 (by omega)).trans hcode⟩

theorem exec_mbDecode_of_empty {s : State} (h : s.rxlen = 0#16) :
    exec .mbDecode s = .next (State.ended { s with regcnt := 0#16, exc := 0#8 } 1#4) := by
  have hrx : s.rxIs [] := ⟨by rw [h]; rfl, nofun⟩
  exact exec_mbDecode_of_rxIs hrx rfl

/-- What MB_DECODE leaves of a complete response (R155, R156): its registers in REGS, the other entries as they were. -/
theorem exec_mbDecode_of_complete {s : State} {f : List Byte} {n : Nat} (h : s.rxIs f) (hn : 3 + n ≤ f.length)
    (hd : mbDecode f = .ok (pairRegs ((f.drop 3).take n))) :
    ∃ t c, exec .mbDecode s = .next t ∧
      t = State.ended { s with regs := t.regs, regcnt := BitVec.ofNat 16 (n / 2), exc := 0#8, privCrc := c } 0#4 ∧
      (∀ k, k < n / 2 → ∃ hi lo, f[3 + 2 * k]? = some hi ∧ f[4 + 2 * k]? = some lo ∧
        Memory.read t.regs k = some (BitVec.ofNat 16 (256 * hi.toNat + lo.toNat))) ∧
      ∀ k, n / 2 ≤ k → Memory.read t.regs k = Memory.read s.regs k := by
  have hcount := pairRegs_payload_length hn
  refine ⟨_, (mbDecodeCrc f).getD s.privCrc, exec_mbDecode_of_rxIs h hd, ?_, fun k hk => ?_, fun k hk => ?_⟩
  · rw [← hcount]
    rfl
  · obtain ⟨hi, lo, hhi, hlo, hreg⟩ := pairRegs_payload_getElem? hn hk
    have hread := holds_writeRange s.regs 0 (pairRegs ((f.drop 3).take n)) k (by omega)
    rw [Nat.zero_add] at hread
    exact ⟨hi, lo, hhi, hlo, hread.trans hreg⟩
  · exact read_writeRange_outside s.regs 0 k _ (.inr (by omega))

/-- Settles O27, one outcome of R154 after the other. -/
theorem mbDecodeResult : Obligations.MbDecodeResult := by
  refine ⟨fun w hw => decode_of_op (by decide) hw fun _ => rfl, fun s h => exec_mbDecode_of_empty h,
    fun s code hcode => State.finishDecode_eq (State.decodeRx_of_rxException hcode),
    fun s f hf hne hnone => ?_,
    fun s hhole hnone => State.finishDecode_fault (State.decodeRx_of_rxHole hhole hnone)⟩
  have hx := no_exception_of_rxIs hf hnone
  refine ⟨fun hv => ?_, fun hv hlen => ?_, fun bc hv hbc hlen => ?_, fun bc hv hbc hlen => ?_⟩
  · exact ⟨_, exec_mbDecode_of_rxIs hf (mbDecode_of_corrupt hne hx hv)⟩
  · exact ⟨_, exec_mbDecode_of_rxIs hf (mbDecode_of_truncated hne hx hv (by omega))⟩
  · rw [← byteAt_of_getElem? hbc] at hlen
    exact ⟨_, exec_mbDecode_of_rxIs hf (mbDecode_of_truncated hne hx hv hlen)⟩
  · obtain rfl := byteAt_of_getElem? hbc
    exact exec_mbDecode_of_complete hf (by omega) (mbDecode_of_complete hne hx hv hlen)

end Sys2Proof.Machine

/-!
PROOFS. The family of spec/42_bms.md: the checksum (O34), BMS_BUILD (O35), BMS_CHECK (O36), the build step of BMS_XCHG
(O37) and what follows one of its reads (O39).
-/
namespace Sys2Proof.Machine

/-! ### The checksum -/

/-- The checksum as a number (R200). -/
theorem sum8_toNat (s : List Byte) : (sum8 s).toNat = (s.map BitVec.toNat).sum % 256 := BitVec.toNat_ofNat _ _

/-- A frame verifies when its last byte is the exact sum of the others modulo 256 (R200, R201). -/
theorem verifySum8_append_iff (body : List Byte) (last : Byte) :
    verifySum8 (body ++ [last]) = true ↔ (body.map BitVec.toNat).sum % 256 = last.toNat := by
  have hlast : byteAt (body ++ [last]) ((body ++ [last]).length - 1) = last := by simp [byteAt]
  rw [verifySum8, hlast, beq_iff_eq, ← List.dropLast_eq_take, List.dropLast_concat, ← BitVec.toNat_inj,
    sum8_toNat]

/-- Any change of one byte of a frame that verifies, be it in the body or the checksum, is detected (R209). -/
theorem verifySum8_set_eq_false {f : List Byte} {i : Nat} {x y : Byte} (hv : verifySum8 f = true)
    (hx : f[i]? = some x) (hxy : y ≠ x) : verifySum8 (f.set i y) = false := by
  obtain rfl | ⟨body, last, rfl⟩ := f.eq_nil_or_concat'
  · cases hx
  rw [verifySum8_append_iff] at hv
  have hne : y.toNat ≠ x.toNat := fun e => hxy (BitVec.eq_of_toNat_eq e)
  rw [← Bool.not_eq_true]
  by_cases hin : i < body.length
  · rw [List.getElem?_append_left hin] at hx
    rw [List.set_append_left _ _ hin, verifySum8_append_iff]
    have hsum := sum_toNat_set body i x y hx
    have hxlt := x.isLt
    have hylt := y.isLt
    omega
  · obtain ⟨k, rfl⟩ := Nat.exists_eq_add_of_le (Nat.le_of_not_lt hin)
    rw [List.getElem?_append_right (by omega), Nat.add_sub_cancel_left] at hx
    rw [List.set_append_right _ _ (by omega), Nat.add_sub_cancel_left]
    match k with
    | 0 =>
      cases hx
      rw [List.set_cons_zero, verifySum8_append_iff]
      omega
    | k + 1 => cases hx

/-- Settles O34. -/
theorem checksumLaws : Obligations.ChecksumLaws :=
  ⟨fun b => (verifySum8_append_iff b (sum8 b)).2 (sum8_toNat b).symm,
    fun _ _ _ _ hv hx hxy => verifySum8_set_eq_false hv hx hxy⟩

/-! ### The request in TXBUF -/

theorem bmsLegal_eq_false_iff (c : Byte) : bmsLegal c = false ↔ c ∉ [0x00#8, 0x27#8, 0x2D#8, 0x2E#8] := by
  rw [← Bool.not_eq_true, bmsLegal_iff]

theorem State.payload_eq_none_iff {s : State} :
    s.payload = none ↔ ∃ k, k < s.latch.plen.toNat ∧ Memory.read s.txbuf (7 + k) = none :=
  Memory.readRange_eq_none _ _ _

/-- The request of a payload of PLEN bytes, its header with PLEN as the length byte (R97, R202). -/
theorem bmsRequest_of_length {c n : Byte} {p : List Byte} (h : p.length = n.toNat) :
    bmsRequest c p = bmsHeader c n ++ p ++ [sum8 (bmsHeader c n ++ p)] := by
  rw [bmsRequest, ofNat_length_eq h]

/-! ### BMS_BUILD -/

theorem exec_bmsBuild_of_illegal {s : State} (h : bmsLegal s.latch.bcmd = false) :
    exec .bmsBuild s = .next (s.ended 6#4) := if_pos h

/-- A legal BMS_BUILD whose payload is written puts the request in TXBUF and completes with OK (R203, R210). -/
theorem exec_bmsBuild_of_legal {s : State} {p : List Byte} (h : bmsLegal s.latch.bcmd = true)
    (hp : s.payload = some p) : exec .bmsBuild s = .next ((s.buildBms p).ended 0#4) := by
  change execBmsBuild s = .next ((s.buildBms p).complete .ok)
  rw [execBmsBuild, if_neg (by simp [h]), hp]

theorem exec_bmsBuild_fault {s : State} (h : bmsLegal s.latch.bcmd = true) (hp : s.payload = none) :
    exec .bmsBuild s = .fault (.uninitRead .txbuf) := by
  change execBmsBuild s = _
  rw [execBmsBuild, if_neg (by simp [h]), hp]

/-- Settles O35. -/
theorem bmsBuildResult : Obligations.BmsBuildResult := by
  refine ⟨fun w hw => decode_of_op (by decide) hw fun _ => rfl, fun s p hcmd hplen hpay => ?_, fun s hbad => ?_,
    fun s hcmd hhole => ?_⟩
  · have hlegal := (bmsLegal_iff s.latch.bcmd).2 (by simpa using hcmd)
    have hpayload := State.payload_eq_some_iff.2 ⟨hplen, hpay⟩
    have hholds := buildBms_holds hplen hpay
    rw [bmsRequest_of_length hplen] at hholds
    exact ⟨_, exec_bmsBuild_of_legal hlegal hpayload, rfl, hholds, fun k hk => buildBms_frame hk⟩
  · exact exec_bmsBuild_of_illegal ((bmsLegal_eq_false_iff _).2 hbad)
  · exact exec_bmsBuild_fault ((bmsLegal_iff _).2 hcmd) (State.payload_eq_none_iff.2 hhole)

/-! ### BMS_CHECK -/

/-- With every byte received written, BMS_CHECK ends with the verdict on them (R206, R211). -/
theorem exec_bmsCheck_of_rxIs {s : State} {f : List Byte} (h : s.rxIs f) :
    exec .bmsCheck s =
      .next (s.ended (if f = [] then 1#4 else if verifySum8 f = true then 0#4 else 5#4)) := by
  rw [← bmsVerdict_code]
  exact State.finishBms_eq h

/-- Settles O36. -/
theorem bmsCheckResult : Obligations.BmsCheckResult := by
  refine ⟨fun w hw => decode_of_op (by decide) hw fun _ => rfl, fun s hempty => ?_, fun s body last hf => ?_,
    fun s hhole => State.finishBms_fault hhole⟩
  · have hrx : s.rxIs [] := ⟨by rw [hempty]; rfl, nofun⟩
    exact exec_bmsCheck_of_rxIs hrx
  · rw [exec_bmsCheck_of_rxIs hf, if_neg (List.concat_ne_nil last body)]
    refine ⟨fun heq => ?_, fun hne => ?_⟩
    · rw [if_pos ((verifySum8_append_iff body last).2 heq)]
    · rw [if_neg (mt (verifySum8_append_iff body last).1 hne)]

/-! ### The build step of BMS_XCHG -/

theorem bmsXchgBuild_of_illegal {s : State} (h : bmsLegal s.latch.bcmd = false) :
    bmsXchgBuild s = .next (State.ended { s with chunks := 0#3 } 6#4) := if_pos h

theorem bmsXchgBuild_fault {s : State} (h : bmsLegal s.latch.bcmd = true) (hp : s.payload = none) :
    bmsXchgBuild s = .fault (.uninitRead .txbuf) := by
  rw [bmsXchgBuild, if_neg (by simp [h]), hp]

/-- Settles O37. -/
theorem bmsXchgBuildStep : Obligations.BmsXchgBuildStep := by
  refine ⟨fun w hw => decode_of_op (by decide) hw fun _ => rfl, fun s w hs hbad => ?_,
    fun s w p hs hcmd hplen hpay => ?_, fun s w hs hcmd hhole => ?_⟩
  · exact (exec_bmsXchg_start hs).trans (bmsXchgBuild_of_illegal ((bmsLegal_eq_false_iff _).2 hbad))
  · have hpayload := State.payload_eq_some_iff.2 ⟨hplen, hpay⟩
    exact ⟨_, _, (exec_bmsXchg_start hs).trans (bmsXchgBuild_of_legal ((bmsLegal_iff _).2 hcmd) hpayload),
      bmsRequest_of_length hplen, rfl, buildBms_holds hplen hpay, fun k hk => buildBms_frame hk⟩
  · exact (exec_bmsXchg_start hs).trans
      (bmsXchgBuild_fault ((bmsLegal_iff _).2 hcmd) (State.payload_eq_none_iff.2 hhole))

/-! ### What follows a read of BMS_XCHG -/

/-- The room that bytes appended to RXBUF leave (R205). -/
theorem State.storeRx_room {s : State} {bs : List Byte} (h : s.rxlen.toNat + bs.length < 65536) :
    (s.storeRx s.rxlen.toNat bs).room = s.params.rxcap - (s.rxlen.toNat + bs.length) := by
  rw [State.room, State.storeRx_rxlen, State.storeRx_params, BitVec.toNat_ofNat, Nat.mod_eq_of_lt h]

/-- A full RXBUF ends the schedule (R205). -/
theorem State.afterRead_of_full {s : State} (h : s.room = 0) (ix : ReadIx) : s.afterRead ix = .closeIn := by
  rcases s.afterRead_cases ix with hclose | ⟨_, _, hroom, _⟩
  · exact hclose
  · omega

/-- A drain read that yielded nothing stops the schedule, RXBUF as it is (R204). -/
theorem State.appendChunk_of_stop {s : State} {ix : ReadIx} {bs : List Byte} (h : ix ≠ .first) (hbs : bs = []) :
    s.appendChunk ix bs = s.goto (.bmsXchg .closeIn) :=
  if_pos ((stopsEarly_iff ix bs).2 ⟨h, hbs⟩)

/-- The first read, and a drain read that yielded bytes, are appended before the schedule goes on (R204). -/
theorem State.appendChunk_of_go {s : State} {ix : ReadIx} {bs : List Byte} (h : ix = .first ∨ bs ≠ []) :
    s.appendChunk ix bs =
      (s.storeRx s.rxlen.toNat bs).goto (.bmsXchg ((s.storeRx s.rxlen.toNat bs).afterRead ix)) :=
  if_neg (by rw [stopsEarly_iff]; tauto)

/-- The step after a read that was answered Ok counts it, then appends or stops (R212). -/
theorem exec_bmsXchg_got {s : State} {ix : ReadIx} {bs : List Byte} (hs : s.seq = .bmsXchg (.got ix (.ok bs))) :
    exec .bmsXchg s = .next (State.appendChunk { s with chunks := s.chunks + 1#3 } ix bs) :=
  exec_bmsXchg_at hs

/-- Settles O39. -/
theorem bmsReceiveSchedule : Obligations.BmsReceiveSchedule := by
  intro s ix bs hs hfit hp
  obtain ⟨_, hcap, _, _⟩ := params_bounds hp
  refine ⟨fun hdrain hempty => ?_, fun hgo => ?_⟩
  · rw [exec_bmsXchg_got hs, State.appendChunk_of_stop hdrain hempty]
    rfl
  · have hroom := State.storeRx_room (s := { s with chunks := s.chunks + 1#3 }) (bs := bs) (by simp only; omega)
    refine ⟨_, (exec_bmsXchg_got hs).trans (congrArg _ (State.appendChunk_of_go hgo)), rfl, ?_, ?_, ?_, ?_⟩
    · exact holds_writeRange s.rxbuf _ bs
    · exact fun k hk => read_writeRange_outside s.rxbuf _ k bs hk
    · intro hfull
      rw [State.goto_seq, State.afterRead_of_full (by rw [hroom]; simp only; omega)]
    · intro hleft
      rw [State.goto_seq, State.afterRead_of_room (by rw [hroom]; simp only; omega)]
      refine ⟨?_, ?_, ?_, ?_⟩ <;> rintro rfl <;> rfl

end Sys2Proof.Machine

/-!
PROOFS. The family of spec/43_control.md: a host write to CMD (O7), the busy gate (O8) and CLR_STATUS (O42).
-/
namespace Sys2Proof.Machine

/-! ### The start of a command -/

/-- The opcodes of R42 as numbers in the word written to CMD (R90). -/
theorem latchesOperands_opField_iff (v : Word) :
    latchesOperands (opField v) = true ↔ v.toNat % 256 ∈ [0x10, 0x12, 0x20, 0x22] := by
  simp [latchesOperands, ← BitVec.toNat_inj, opField_toNat, or_assoc]

/-- A write that finds BUSY = 0 at any of the four byte addresses of CMD starts the command (R62, R253). -/
theorem step_write_cmd {s : State} {v : Word} {k : Nat} {rest : List Turn} (hk : k < 4) (hr : s.rst = false)
    (hb : s.busy = false) (h : s.agenda = .write .word (s.params.pbBase + k) v :: rest) :
    step s = .next (State.issue { s with agenda := rest } v) := by
  have atCmd : targetAt s.params.rxcap k = .cmd := targetAt_low (k := 0) (by omega) (by decide)
  rw [step_write_idle (by omega) hr hb h, atCmd]
  rfl

/-- STATUS shows BUSY = 1 and DONE = 0 in its two low bits (R25, R253). -/
theorem State.issue_statusWord_mod (s : State) (v : Word) : (s.issue v).statusWord.toNat % 4 = 1 := by
  rw [statusWord_toNat, State.issue_busy, State.issue_done, Bool.toNat_true, Bool.toNat_false]
  omega

/-- Settles O7. -/
theorem cmdWriteStartsCommand : Obligations.CmdWriteStartsCommand := by
  intro s v k rest hk hr hb h
  refine ⟨_, step_write_cmd hk hr hb h, ?_, State.issue_statusWord_mod _ v, State.fetch_of_start rfl⟩
  simp only [State.issue, latchesOperands_opField_iff]
  rfl

/-! ### The busy gate -/

theorem registerAt_ne_reserved : ∀ k < 12, registerAt k ≠ .reserved := by decide

theorem not_writeGated_of_status {c o : Nat} (h : targetAt c o = .status) : writeGated c o = false := by
  simp [writeGated, offset_of_targetAt_status h]

/-- A dropped write to a reserved word is not counted as an overrun (R36, R250). -/
theorem not_writeGated_of_reserved {c o : Nat} (hc : c ≤ 1024) (h : targetAt c o = .reserved) :
    writeGated c o = false := by
  rcases targetAt_cases c o hc with
    hlow | ⟨i, _, _, htx⟩ | ⟨i, _, _, hrx⟩ | ⟨i, _, _, hreg⟩ | ⟨_, h12, hplace⟩
  · exact absurd ((targetAt_low rfl hlow).symm.trans h) (registerAt_ne_reserved _ hlow)
  · cases htx.symm.trans h
  · cases hrx.symm.trans h
  · cases hreg.symm.trans h
  · simp only [writeGated, Bool.and_eq_false_iff, Bool.or_eq_false_iff, decide_eq_false_iff_not]
    omega

/-- What the busy gate leaves of a write to the word at offset `o` (R250). -/
theorem State.writeBusy_targetAt {s : State} {o : Nat} (ho : o < 0x4000) (hc : s.params.rxcap ≤ 1024) :
    s.writeBusy (targetAt s.params.rxcap o) = { s with ovr := s.ovr || writeGated s.params.rxcap o } := by
  cases htg : targetAt s.params.rxcap o with
  | status => rw [not_writeGated_of_status htg, Bool.or_false]; rfl
  | reserved => rw [not_writeGated_of_reserved hc htg, Bool.or_false]; rfl
  | _ => rw [writeGated_of_target ho (by simp [htg]) (by simp [htg]), Bool.or_true]; rfl

/-- A host write that finds BUSY = 1 goes through the busy gate (R250, R300). -/
theorem step_write_busy {s : State} {o : Nat} {v : Word} {rest : List Turn} (ho : o < 0x4000) (hr : s.rst = false)
    (hb : s.busy = true) (h : s.agenda = .write .word (s.params.pbBase + o) v :: rest) :
    step s = .next (State.writeBusy { s with agenda := rest } (targetAt s.params.rxcap o)) := by
  rw [step_write ho h, State.writeTarget, if_neg (by simp [hr]), if_pos (by simp [hb])]

/-- A read turn is answered where the address names a word that holds a value (R41, R60). -/
theorem completes_step_read_iff {s : State} {a : Nat} {rest : List Turn} (h : s.agenda = .read .word a :: rest) :
    Completes (step s) ↔ ∃ tg v, s.target a = some tg ∧ s.readTarget tg = .ok v := by
  constructor
  · rintro ⟨t, ht⟩
    obtain ⟨tg, v, htg, hv, _⟩ := step_read_eq_next h ht
    exact ⟨tg, v, htg, hv⟩
  · rintro ⟨tg, v, htg, hv⟩
    obtain ⟨o, ho, rfl, rfl⟩ := State.target_eq_some htg
    exact ⟨_, step_read_of_ok ho h hv⟩

/-- BUSY is seen in STATUS alone, and STATUS always holds a value (R25). -/
theorem State.readTarget_ok_busy_iff (s : State) (b b' : Bool) (tg : Target) :
    (∃ v, State.readTarget { s with busy := b } tg = .ok v) ↔
      ∃ v, State.readTarget { s with busy := b' } tg = .ok v := by
  cases tg with
  | status => exact ⟨fun _ => ⟨_, rfl⟩, fun _ => ⟨_, rfl⟩⟩
  | _ => exact Iff.rfl

/-- Settles O8: the gate over the whole window, and reads, which pass it. -/
theorem busyGateDropsHostWrites : Obligations.BusyGateDropsHostWrites := by
  refine ⟨fun s v o rest ho hp hr hb h => ?_, fun s a rest h => ?_⟩
  · obtain ⟨_, hcap, _, _⟩ := params_bounds hp
    rw [step_write_busy ho hr hb h]
    exact congrArg _ (State.writeBusy_targetAt (s := { s with agenda := rest }) ho hcap)
  · rw [completes_step_read_iff (s := { s with busy := true }) h,
      completes_step_read_iff (s := { s with busy := false }) h]
    simp only [exists_and_left, State.readTarget_ok_busy_iff s true false]
    rfl

/-! ### CLR_STATUS -/

theorem decode_clrStatus {w : Word} (h : w.toNat % 256 = 0xF0) : decode w = .ok .clrStatus :=
  decode_of_op (by decide) h fun _ => rfl

/-- Settles O42. -/
theorem clrStatusResult : Obligations.ClrStatusResult := by
  refine ⟨fun _ => decode_clrStatus, fun _ => rfl, fun s t ht => ?_⟩
  cases ht
  rw [statusWord_eq_ofNat]
  rfl

end Sys2Proof.Machine

/-!
PROOFS. The family of spec/60_exceptions.md: the machine at rest (R282, R303; O15). The engine of an IDLE machine
fetches nothing, so its step is the identity, and so is every run made of such steps.
-/
namespace Sys2Proof.Machine

theorem State.fetch_of_idle {s : State} (hs : s.seq = .idle) : s.fetch = none := by
  simp only [State.fetch, hs]

/-- An engine step that finds PB IDLE does nothing, whatever the level of `rst` (R282, R300, R303). -/
theorem engineStep_of_idle {s : State} (hs : s.seq = .idle) : engineStep s = .next s := by
  unfold engineStep
  split
  case isTrue => rfl
  case isFalse => rw [State.fetch_of_idle hs]

/-- With no turn listed the engine moves, and on an IDLE machine it changes nothing (R303). -/
theorem step_of_idle {s : State} (ha : s.agenda = []) (hs : s.seq = .idle) : step s = .next s :=
  calc step s
    _ = engineStep s := by rw [step, State.nextTurn_of_nil ha, State.popTurn_of_nil ha, takeTurn]
    _ = .next s := engineStep_of_idle hs

/-- A state that a step keeps is kept by every run. -/
theorem runSteps_of_step_self {s : State} (h : step s = .next s) (n : Nat) : runSteps n s = .next s := by
  induction n with
  | zero => exact runSteps_zero s
  | succ n ih => exact (runSteps_succ h).trans ih

/-- Settles O15. -/
theorem idleMachineStays : Obligations.IdleMachineStays :=
  fun _ ha hs n => runSteps_of_step_self (step_of_idle ha hs) n

end Sys2Proof.Machine

/-!
PROOFS. The family of spec/70_reset_and_hazards.md: the reset input and the power-on state (O14, O16). What `rst` leaves
is the state of power-on reset, but for what it keeps; while it stays asserted, a write or an engine turn is only taken.
-/
namespace Sys2Proof.Machine

/-! ### The reset input -/

/-- Every flag is 0 and RESULT is OK (R25, R300). -/
theorem State.applyReset_statusWord (s : State) : s.applyReset.statusWord = 0#32 := by
  rw [statusWord_eq_ofNat]; rfl

/-- Power-on reset and an asserted `rst` give the registers the same values (R300, R301). -/
theorem State.applyReset_reset : State.reset.applyReset = State.reset := rfl

/-- A turn that asserts `rst` resets PB and holds it there (R300). -/
theorem step_rst_true {s : State} {rest : List Turn} (h : s.agenda = .rst true :: rest) :
    step s = .next { State.applyReset { s with agenda := rest } with rst := true } := by
  rw [step_cons h, takeTurn, resetInput, if_pos rfl]

/-- A write to any word is ignored while `rst` is asserted (R300). -/
theorem State.writeTarget_of_rst {s : State} (hr : s.rst = true) (v : Word) (tg : Target) : s.writeTarget v tg = s := by
  rw [State.writeTarget, if_pos hr]

/-- The engine does nothing while `rst` is asserted, whatever SEQ holds (R300). -/
theorem engineStep_of_rst {s : State} (hr : s.rst = true) : engineStep s = .next s := by
  rw [engineStep, if_pos hr]

/-- Settles O14. -/
theorem resetInputSetsRegisters : Obligations.ResetInputSetsRegisters := by
  refine ⟨fun s rest h => ?asserted, fun s o v rest ho hr h => ?write, fun s rest hr h => ?engine, ?powerOn,
    reset_read_none⟩
  case asserted =>
    exact ⟨_, step_rst_true h, by simp, State.applyReset_statusWord { s with agenda := rest }, by simp⟩
  case write =>
    rw [step_write ho h, State.writeTarget_of_rst (s := { s with agenda := rest }) hr]
  case engine =>
    rw [step_cons h, takeTurn, engineStep_of_rst (s := { s with agenda := rest }) hr]
  case powerOn =>
    rw [← State.applyReset_reset]
    exact ⟨by simp, State.applyReset_statusWord State.reset, by simp⟩

/-! ### The power-on state -/

/-- Cleared registers and empty arrays are in their ranges; so are the parameters chosen (R5, R301, log 1). -/
theorem reset_dataOk : State.reset.DataOk where
  params := by decide
  result_le := Nat.zero_le _
  txlen_le := Nat.zero_le _
  rxlen_le := Nat.zero_le _
  regcnt_le := Nat.zero_le _
  chunks_le := Nat.zero_le _
  txbuf_wf := reset_txbuf_wf
  rxbuf_wf := reset_rxbuf_wf
  regs_wf := rfl

/-- Settles O16: PB comes up IDLE, where the invariant asks nothing more than legal data. -/
theorem resetMeetsInvariant : Obligations.ResetMeetsInvariant :=
  reset_dataOk.inv_of_idle rfl rfl

end Sys2Proof.Machine
